-- ==== Sys2Proof/Word.lean ====
section
/-! DEFINITION. The word types of the block: bytes, 32-bit register words, and offsets in the
block's 2^25-byte host window (spec/00_scope.md R10, R11; spec/20_memory.md R47). -/

namespace Sys2Proof

/-- A byte is an 8-bit unsigned value (R11). -/
abbrev Byte := BitVec 8

/-- Every register is 32 bits wide on the bus (R21), and a command is one 32-bit word (R69). -/
abbrev Word := BitVec 32

/-- Every host address is an offset from BASE in a window of 2^25 bytes (R47). -/
abbrev Offset := BitVec 25

end Sys2Proof
end

