-- ==== Sys2Proof/Syntax.lean ====
section
/-! DEFINITION. The instructions: one constructor per row of spec/opcode_table.json
(spec/30_encoding.md R70, R73, R77). No command has an immediate or a register field (R76), so no
constructor has an argument. -/

namespace Sys2Proof

/-- The six legal commands (R73). A reserved word is no instruction: it decodes to none of these
and completes with BAD_COMMAND (R74). -/
inductive Instr where
  | size    -- SIZE,   0x0000_0001
  | ser     -- SER,    0x0000_0002
  | des     -- DES,    0x0000_0003: A = 0, S = 0
  | desA    -- DES.A,  0x0000_0103: A = 1, S = 0
  | desS    -- DES.S,  0x0000_0203: A = 0, S = 1
  | desAS   -- DES.AS, 0x0000_0303: A = 1, S = 1
  deriving DecidableEq, Repr

end Sys2Proof
end

