-- ==== Sys2Proof/WellFormed.lean ====
section
/-! DEFINITION. The CMD32 format as a record of its fields (spec/30_encoding.md R69) and the three
checks that make a command word legal (R70, R71, R72). An instruction is well formed when the
fields it stands for pass them. -/

namespace Sys2Proof

/-- The fields of a command word (R69): OP in bits 7:0, A in bit 8, S in bit 9, RSV in bits 31:10. -/
structure Cmd32 where
  op  : BitVec 8
  a   : Bool
  s   : Bool
  rsv : BitVec 22
  deriving DecidableEq, Repr

/-- A command word with any of bits 31:10 set is reserved (R72). -/
def Cmd32.reservedClear (c : Cmd32) : Bool := c.rsv == 0#22

/-- OP is one of SIZE, SER, DES; every other OP is reserved (R70). -/
def Cmd32.opKnown (c : Cmd32) : Bool := c.op == 0x01#8 || c.op == 0x02#8 || c.op == 0x03#8

/-- For SIZE and SER, A and S must be 0 (R71). -/
def Cmd32.optionsLegal (c : Cmd32) : Bool := c.op == 0x03#8 || (!c.a && !c.s)

/-- The fields make a legal command. -/
def Cmd32.wellFormed (c : Cmd32) : Bool := c.reservedClear && c.opKnown && c.optionsLegal

/-- The fields an instruction stands for (R70, R71; the rows of spec/opcode_table.json). -/
def Instr.fields : Instr → Cmd32
  | .size  => ⟨0x01#8, false, false, 0#22⟩
  | .ser   => ⟨0x02#8, false, false, 0#22⟩
  | .des   => ⟨0x03#8, false, false, 0#22⟩
  | .desA  => ⟨0x03#8, true, false, 0#22⟩
  | .desS  => ⟨0x03#8, false, true, 0#22⟩
  | .desAS => ⟨0x03#8, true, true, 0#22⟩

/-- An instruction is well formed when its fields make a legal command. -/
def Instr.wellFormed (i : Instr) : Bool := i.fields.wellFormed

end Sys2Proof
end

