-- ==== Sys2Proof/Decode.lean ====
section
/-! DEFINITION. The decoder, total on every 32-bit word and rejecting by name (spec/30_encoding.md
R72, R73, R74), and after it the encoder (R69). The block fetches nothing from memory (R66): the
decoder reads the word latched in `cur`, and nothing else (R75). -/

namespace Sys2Proof

/-- Why a word is reserved (R74: all three complete alike, with BAD_COMMAND). -/
inductive BadWord where
  | reservedBits     -- one of bits 31:10 is set (R72)
  | reservedOption   -- OP is SIZE or SER, and A or S is set (R71)
  | reservedOp       -- OP is 0x00 or 0x04 to 0xFF (R70)
  deriving DecidableEq, Repr

/-- Bits 7:0 (R69). -/
def opField (w : Word) : BitVec 8 := w.extractLsb' 0 8

/-- Bits 9:8, S above A (R69). -/
def optionField (w : Word) : BitVec 2 := w.extractLsb' 8 2

/-- Bits 31:10 (R69). -/
def rsvField (w : Word) : BitVec 22 := w.extractLsb' 10 22

/-- The fields of a command word (R69). -/
def Cmd32.ofWord (w : Word) : Cmd32 :=
  ⟨opField w, w.getLsbD 8, w.getLsbD 9, rsvField w⟩

/-- DES by its option bits A and S (R71, R73). -/
def desForm : Bool → Bool → Instr
  | false, false => .des
  | true, false => .desA
  | false, true => .desS
  | true, true => .desAS

/-- The decoder of R73, in its order. -/
def decode (w : Word) : Except BadWord Instr :=
  if rsvField w ≠ 0#22 then .error .reservedBits
  else if opField w = 0x01#8 then
    if optionField w = 0#2 then .ok .size else .error .reservedOption
  else if opField w = 0x02#8 then
    if optionField w = 0#2 then .ok .ser else .error .reservedOption
  else if opField w = 0x03#8 then .ok (desForm (w.getLsbD 8) (w.getLsbD 9))
  else .error .reservedOp

/-- The word that has these fields (R69). -/
def Cmd32.toWord (c : Cmd32) : Word :=
  c.rsv ++ BitVec.ofBool c.s ++ BitVec.ofBool c.a ++ c.op

/-- The word of an instruction (R69, R73). -/
def encode (i : Instr) : Word := i.fields.toWord

/-- The word of a table row: its low `nbits` bits, the others 0. Every command is exactly one 32-bit
word (R75). -/
def tableWord (nbits w : Nat) : Word := BitVec.ofNat 32 (w % 2 ^ nbits)

/-- What the decoder reads from an instruction whose bits are `w`, numbered as spec/opcode_table.json
numbers them; more than 32 bits are no command (R75). -/
def decodeTableWord (nbits w : Nat) : Option Instr :=
  if 32 < nbits then none
  else match decode (tableWord nbits w) with
    | .ok i => some i
    | .error _ => none

end Sys2Proof
end

