-- ==== Sys2Proof/Config.lean ====
section
/-! DEFINITION. The implementation parameters of spec/00_scope.md R6 and R9, and the free values of
R16 (draws). The parameters are ONE opaque constant `Config.chip`: nothing in Lean can evaluate it,
so a claim about it holds for every Header Codec, marker, error width and buffer size the spec
admits. The spec's reference values stand in Machine/HeaderCodec.lean. -/

namespace Sys2Proof

/-- The header value of R9. -/
structure Header where
  packetType  : Byte
  length      : BitVec 16
  paddingFlag : Bool
  count       : BitVec 5
  deriving DecidableEq, Repr

/-- A sequence of exactly 4 bytes (R9). -/
structure Bytes4 where
  b0 : Byte
  b1 : Byte
  b2 : Byte
  b3 : Byte
  deriving DecidableEq, Repr

/-- The four bytes as a byte sequence, in order. -/
def Bytes4.toList (b : Bytes4) : List Byte := [b.b0, b.b1, b.b2, b.b3]

/-- The Header Codec of R9: a pair of total functions, with an error value of `w` bits that means
nothing to the block, and the two laws the block relies on. The default values only show that the
type has an element. -/
structure HeaderCodec (w : Nat) where
  ser   : Header → Except (BitVec w) Bytes4 := fun _ => .error 0
  parse : List Byte → Except (BitVec w) Header := fun _ => .error 0
  /-- HC-L1: an input of 4 bytes or more is judged by its first 4 bytes. -/
  locality  : ∀ b : List Byte, 4 ≤ b.length → parse b = parse (b.take 4) := by intros; rfl
  /-- HC-L2: parsing what `ser` wrote, whatever follows it, gives the header value back. -/
  roundTrip : ∀ (h : Header) (hb : Bytes4), ser h = .ok hb →
      ∀ r : List Byte, parse (hb.toList ++ r) = .ok h := by intro _ _ hk; cases hk
  deriving Inhabited

/-- The parameters of R6, with their constraints. The default values only show that the type has an
element. -/
structure Params where
  hdrErrW : Nat := 8
  hc      : HeaderCodec hdrErrW := default
  ptApp   : Byte := 0
  bufSize : Nat := 16
  hdrErrW_range : 1 ≤ hdrErrW ∧ hdrErrW ≤ 32 := by decide
  bufSize_align : bufSize % 4 = 0 := by decide
  bufSize_range : 16 ≤ bufSize ∧ bufSize ≤ 2 ^ 24 := by decide
  deriving Inhabited

/-- The parameters of the chip: open in the spec (R6; spec/92_eei_decisions.md D1 to D4), so an
uninterpreted constant (log entry 1). -/
opaque Config.chip : Params

/-- The draws of R16 that are bytes: the k-th one (log entry 2). -/
opaque Config.freeByte : Nat → Byte

/-- The draws of R16 that are words: the k-th one (log entry 2). -/
opaque Config.freeWord : Nat → Word

end Sys2Proof
end

