-- ==== Sys2Proof/Machine/State.lean ====
section
/-! DEFINITION. The state of the block (spec/10_state.md R20) as plain data, the model's own fields
beside it (log entries 2, 3, 4, 5, 6), the faults and refusals, and the state after reset
(spec/70_reset_and_hazards.md R153, R154, R156). -/

namespace Sys2Proof.Machine

/-- The model faults of R16 and R43. A host access raises them by recording them in `State.faults`;
the step itself goes on (R53, R158). Safe: a claim about a run takes "faults is empty" as a premise. -/
inductive Fault where
  /-- A host access of an illegal width or alignment (R53), recorded by Machine/HostBus.lean. Safe. -/
  | hostBusError
  /-- A host write to a command input while a command is in flight (R158), recorded by
  Machine/HostBus.lean. Safe. -/
  | hazardWrite
  deriving DecidableEq, Repr

/-- The refusals of the host's interface. No arm of exec raises one: every command has its meaning. -/
inductive Refusal where
  /-- An instruction that has no meaning yet, by its mnemonic. Nothing raises it. Safe. -/
  | notModelled (mnemonic : String)
  deriving DecidableEq, Repr

/-- A set of model faults (R43). -/
structure FaultSet where
  hostBusError : Bool
  hazardWrite  : Bool
  deriving DecidableEq, Repr

/-- No fault is recorded. -/
def FaultSet.empty : FaultSet := ⟨false, false⟩

/-- A host access: its direction, its width in bits, its offset from BASE and the data of a write
(R78). An 8-bit write carries its byte in bits 7:0 of the data. -/
inductive Access where
  | read  (width : Nat) (offset : Offset)
  | write (width : Nat) (offset : Offset) (data : Word)
  deriving DecidableEq, Repr

/-- Which of the two agents of R5 takes the turn: the Engine (its completion step), or the Host with
one access. -/
inductive Action where
  | engine
  | access (a : Access)
  deriving DecidableEq, Repr

/-- One turn of the total order of R62. With the reset input asserted the turn is a reset, whatever
else would have happened at that time (R145, R152). -/
structure Turn where
  reset  : Bool
  action : Action
  deriving DecidableEq, Repr

/-- What a host access returns on the bus: read data, an accepted write, or an error response (R53). -/
inductive Response where
  | word (v : Word)
  | byte (b : Byte)
  | written
  | busError
  deriving DecidableEq, Repr

/-- Where the parameters of R6 come from (log entry 5): the open constants of the chip; the reference
values that spec/95_test_vectors.md uses; or the reference values with a Header Codec that refuses
every header, which the notes of section 3 of that file ask for to see HEADER_ERROR from SER. -/
inductive Setting where
  | chip
  | reference
  | refusing
  deriving DecidableEq, Repr

/-- BUF: the written bytes, by strictly rising address; an address with no entry is unwritten
(R31, R154). -/
abbrev Memory := List Host.Cell

/-- The state of the block. -/
structure State where
  -- the field registers (R22 to R30)
  subtype    : BitVec 5
  senderSsrc : Word
  mediaSsrc  : Word
  name       : Word
  nameLen    : Word
  dataPtr    : Word
  dataLen    : Word
  wirePtr    : Word
  wireLen    : Word
  -- STATUS (R33)
  busy       : Bool
  done       : Bool
  ovr        : Bool
  code       : BitVec 4
  -- CTRL.IE (R39) and HDR_ERR (R40)
  ie         : Bool
  hdrErr     : Word
  -- the byte buffer (R31) and the latched command word (R41)
  buf        : Memory
  cur        : Word
  -- the model faults recorded so far (R43)
  faults     : FaultSet
  -- the model's own: draws taken so far; whether a hazard write hit the command in flight; the
  -- turns to come; what the last host access returned; where the parameters come from
  draws      : Nat
  tainted    : Bool
  schedule   : List Turn
  response   : Option Response
  setting    : Setting
  deriving DecidableEq, Repr

/-- The state after power-on: every register 0 (R153), every byte of BUF unwritten (R154), no fault
recorded (R43), idle (R156). `cur` is meaningless while BUSY = 0; it is 0 here (log entry 7). -/
def State.reset : State where
  subtype    := 0
  senderSsrc := 0
  mediaSsrc  := 0
  name       := 0
  nameLen    := 0
  dataPtr    := 0
  dataLen    := 0
  wirePtr    := 0
  wireLen    := 0
  busy       := false
  done       := false
  ovr        := false
  code       := 0
  ie         := false
  hdrErr     := 0
  buf        := []
  cur        := 0
  faults     := FaultSet.empty
  draws      := 0
  tainted    := false
  schedule   := []
  response   := none
  setting    := .chip

end Sys2Proof.Machine
end

