-- ==== Sys2Proof/Machine/Flags.lean ====
section
/-! DEFINITION. The status codes (spec/60_exceptions.md R131), the STATUS word and its W1C bits
(spec/10_state.md R33, R38), the issue step (R132) and the interrupt line (R42). The block has no
other flag (R45). -/

namespace Sys2Proof.Machine

/-- The names of R131. -/
inductive StatusCode where
  | ok
  | dataTooLarge
  | invalidName
  | packetTooShort
  | invalidLength
  | wrongPadding
  | headerError
  | bufferFault
  | badCommand
  deriving DecidableEq, Repr

/-- The value of STATUS.CODE for a name (R131). Codes 9 to 15 are never written. -/
def StatusCode.bits : StatusCode → BitVec 4
  | .ok             => 0#4
  | .dataTooLarge   => 1#4
  | .invalidName    => 2#4
  | .packetTooShort => 3#4
  | .invalidLength  => 4#4
  | .wrongPadding   => 5#4
  | .headerError    => 6#4
  | .bufferFault    => 7#4
  | .badCommand     => 8#4

/-- The STATUS register as a host reads it (R33): CODE in bits 11:8, OVR, DONE and BUSY in bits 2, 1
and 0, every other bit 0. -/
def State.statusWord (s : State) : Word :=
  0#20 ++ s.code ++ 0#5 ++ BitVec.ofBool s.ovr ++ BitVec.ofBool s.done ++ BitVec.ofBool s.busy

/-- A host write of `v` to STATUS (R38): the acknowledgement of R141. -/
def State.ackStatus (s : State) (v : Word) : State :=
  { s with done := s.done && !v.getLsbD 1, ovr := s.ovr && !v.getLsbD 2 }

/-- The issue step with BUSY = 0 (R132): it latches the word, decoding nothing. -/
def State.issue (s : State) (w : Word) : State :=
  { s with cur := w, busy := true, done := false }

/-- A host write of `w` to CMD (R32, R132): the issue step, or OVR when a command is in flight
(R143). -/
def State.writeCmd (s : State) (w : Word) : State :=
  if s.busy then { s with ovr := true } else s.issue w

/-- The interrupt line (R42). -/
def State.irq (s : State) : Bool := s.done && s.ie

end Sys2Proof.Machine
end

