-- ==== Sys2Proof/Machine/HeaderCodec.lean ====
section
/-! DEFINITION. The reference Header Codec HC_REF (spec/30_encoding.md R90, R91, R92), the reference
parameters of spec/00_scope.md R6, and the parameters a state runs with. -/

namespace Sys2Proof.Machine

/-- HC_REF.ser (R90): version 2, the padding flag and the count in byte 0; the packet type; the
length, big-endian. -/
def hcRefSer (h : Header) : Except (BitVec 8) Bytes4 :=
  .ok ⟨2#2 ++ BitVec.ofBool h.paddingFlag ++ h.count, h.packetType,
    h.length.extractLsb' 8 8, h.length.extractLsb' 0 8⟩

/-- HC_REF.parse (R91): an input shorter than 4 bytes gives error 0x01, a version other than 2 gives
error 0x02. -/
def hcRefParse : List Byte → Except (BitVec 8) Header
  | b0 :: b1 :: b2 :: b3 :: _ =>
    if b0.extractLsb' 6 2 ≠ 2#2 then .error 0x02#8
    else .ok ⟨b1, b2 ++ b3, b0.getLsbD 5, b0.extractLsb' 0 5⟩
  | _ => .error 0x01#8

/-- HC_REF satisfies HC-L1 (R92). -/
theorem hcRef_locality (b : List Byte) (h : 4 ≤ b.length) : hcRefParse b = hcRefParse (b.take 4) := by
  match b, h with
  | _ :: _ :: _ :: _ :: _, _ => rfl

/-- Byte 0 of HC_REF read back: the version, the flag and the count. -/
theorem hcRef_byte0 : ∀ (p : Bool) (c : BitVec 5),
    (2#2 ++ BitVec.ofBool p ++ c : BitVec 8).extractLsb' 6 2 = 2#2 ∧
    (2#2 ++ BitVec.ofBool p ++ c : BitVec 8).getLsbD 5 = p ∧
    (2#2 ++ BitVec.ofBool p ++ c : BitVec 8).extractLsb' 0 5 = c := by decide

/-- A 16-bit value is its high byte above its low byte. -/
theorem bytes_of_halfword (v : BitVec 16) :
    (v.extractLsb' 8 8 ++ v.extractLsb' 0 8 : BitVec 16) = v := by
  ext i hi
  simp only [BitVec.getElem_append, BitVec.getElem_extractLsb']
  split
  · simp [BitVec.getLsbD_eq_getElem hi]
  · rw [show 8 + (i - 8) = i by omega, BitVec.getLsbD_eq_getElem hi]

/-- HC_REF satisfies HC-L2 (R92). -/
theorem hcRef_roundTrip (h : Header) (hb : Bytes4) (hs : hcRefSer h = .ok hb) (r : List Byte) :
    hcRefParse (hb.toList ++ r) = .ok h := by
  cases hs
  obtain ⟨hv, hf, hc⟩ := hcRef_byte0 h.paddingFlag h.count
  simp only [Bytes4.toList, List.cons_append, hcRefParse, hv, hf, hc, bytes_of_halfword, ne_eq,
    not_true_eq_false, if_false]

/-- HC_REF with its laws (R92). -/
def hcRef : HeaderCodec 8 where
  ser       := hcRefSer
  parse     := hcRefParse
  locality  := hcRef_locality
  roundTrip := hcRef_roundTrip

/-- The reference values of R6: HC_REF, PT_APP = 204, an 8-bit error, 2^19 bytes of BUF. -/
def Params.reference : Params where
  hdrErrW := 8
  hc      := hcRef
  ptApp   := 204#8
  bufSize := 2 ^ 19
  hdrErrW_range := by decide
  bufSize_align := by decide
  bufSize_range := by decide

/-- A Header Codec that refuses every header and every input with error 0xE1. It satisfies both laws. -/
def refusingCodec : HeaderCodec 8 where
  ser       := fun _ => .error 0xE1#8
  parse     := fun _ => .error 0xE1#8
  locality  := fun _ _ => rfl
  roundTrip := fun _ _ h => nomatch h

/-- The reference values of R6 but for the Header Codec, which refuses everything. -/
def Params.refusing : Params := { Params.reference with hdrErrW := 8, hc := refusingCodec }

/-- The parameters a state runs with (R6). They are no state of the block (R20): no step changes
`setting` (log entry 5). -/
def State.params (s : State) : Params :=
  match s.setting with
  | .chip => Config.chip
  | .reference => Params.reference
  | .refusing => Params.refusing

end Sys2Proof.Machine
end

