-- ==== Sys2Proof/Machine/Ops.lean ====
section
/-! DEFINITION. The shared operations: byte order (spec/20_memory.md R51, R54), the byte buffer
(R31, R59, R154), the Header Codec calls (spec/40_serializer.md R102; spec/41_deserializer.md R114),
and the completion step (spec/60_exceptions.md R133, R134, R135), which is the block's one exception
mechanism. -/

namespace Sys2Proof.Machine

/-- be32 (R11): the four bytes of a word, the most significant first. -/
def be32 (v : Word) : List Byte :=
  [v.extractLsb' 24 8, v.extractLsb' 16 8, v.extractLsb' 8 8, v.extractLsb' 0 8]

/-- BE32 (R11): the word whose bytes these are, the most significant first. -/
def ofBE (b0 b1 b2 b3 : Byte) : Word := b0 ++ b1 ++ b2 ++ b3

/-- BE32 of the four bytes that stand at index `i` of a byte sequence (R11). Every caller has at
least `i + 4` bytes, so the 0 of `getD` is never read. -/
def wordAt (bs : List Byte) (i : Nat) : Word :=
  ofBE (bs.getD i 0) (bs.getD (i + 1) 0) (bs.getD (i + 2) 0) (bs.getD (i + 3) 0)

/-- The written byte at an address, if there is one. -/
def Memory.cell : Memory → Nat → Option Byte
  | [], _ => none
  | (k, b) :: m, a => if k = a then some b else Memory.cell m a

/-- Write one byte, keeping the addresses strictly rising. -/
def Memory.setCell : Memory → Nat → Byte → Memory
  | [], a, b => [(a, b)]
  | (k, c) :: m, a, b =>
    if a < k then (a, b) :: (k, c) :: m
    else if a = k then (a, b) :: m
    else (k, c) :: Memory.setCell m a b

/-- MemWrite (R14): the bytes `bs` at the addresses from `a` on. -/
def Memory.store : Memory → Nat → List Byte → Memory
  | m, _, [] => m
  | m, a, b :: bs => Memory.store (m.setCell a b) (a + 1) bs

/-- One byte: the written one, or the draw numbered `d` where none is written (R154). -/
def Memory.read (m : Memory) (d a : Nat) : Byte := (m.cell a).getD (Config.freeByte d)

/-- MemRead (R14): the bytes at the addresses `a` to `a + n - 1`. Byte `i` uses the draw numbered
`d + i`, so every unwritten byte has a draw of its own (R154). -/
def Memory.readRegion (m : Memory) (d a n : Nat) : List Byte :=
  (List.range n).map fun i => m.read (d + i) (a + i)

/-- The canonical form: addresses strictly rising. An unwritten byte reads as a draw, so no written
byte is left out. -/
abbrev Memory.wf (m : Memory) : Prop := m.Pairwise fun x y => x.1 < y.1

/-- Every written byte lies in BUF (R31). -/
abbrev Memory.inBuf (m : Memory) (size : Nat) : Prop := ∀ x ∈ m, x.1 < size

/-- HC.ser with its error zero-extended to HDR_ERR's 32 bits (R102, R135). -/
def headerSer (P : Params) (h : Header) : Except Word Bytes4 :=
  match P.hc.ser h with
  | .error e => .error (e.setWidth 32)
  | .ok hb => .ok hb

/-- HC.parse with its error zero-extended to HDR_ERR's 32 bits (R114, R135). -/
def headerParse (P : Params) (input : List Byte) : Except Word Header :=
  match P.hc.parse input with
  | .error e => .error (e.setWidth 32)
  | .ok h => .ok h

/-- What `raise` carries (R15): the status code, and the Header Codec's error value where there is one. -/
structure Raise where
  code   : StatusCode
  hdrErr : Option Word
  deriving DecidableEq, Repr

/-- The status report of a completion (R133): CODE, BUSY and DONE. `reads` is how many draws the
command may have taken. -/
def State.finish (s : State) (c : StatusCode) (reads : Nat) : State :=
  { s with
    code := c.bits, busy := false, done := true, tainted := false, draws := s.draws + reads }

/-- The completion step, given a command's result on `s` (R133): with OK its pending writes are
applied; with an error only HDR_ERR, and that only for the Header Codec's error (R134, R135). -/
def State.complete (s : State) (reads : Nat) : Except Raise State → State
  | .ok t => t.finish .ok reads
  | .error r => { s with hdrErr := r.hdrErr.getD s.hdrErr }.finish r.code reads

/-- The completion of a reserved word (R74, R138): no operand is read. -/
def State.completeBad (s : State) : State := s.complete 0 (.error ⟨.badCommand, none⟩)

/-- The completion of a command that a hazard write hit while it was in flight (R158): the value
written and the command's result are unspecified, so everything a command or the hazard write could
have changed is free, within the widths R22 and R40 give and the codes R131 gives, and every byte of
BUF reads as a draw (log entry 4). -/
def State.completeTainted (s : State) : State :=
  { s with
    subtype := (Config.freeWord s.draws).setWidth 5
    senderSsrc := Config.freeWord (s.draws + 1)
    mediaSsrc := Config.freeWord (s.draws + 2)
    name := Config.freeWord (s.draws + 3)
    nameLen := Config.freeWord (s.draws + 4)
    dataPtr := Config.freeWord (s.draws + 5)
    dataLen := Config.freeWord (s.draws + 6)
    wirePtr := Config.freeWord (s.draws + 7)
    wireLen := Config.freeWord (s.draws + 8)
    code := BitVec.ofNat 4 ((Config.freeWord (s.draws + 9)).toNat % 9)
    hdrErr := ((Config.freeWord (s.draws + 10)).setWidth s.params.hdrErrW).setWidth 32
    busy := false
    done := true
    buf := []
    draws := s.draws + 11
    tainted := false }

/-- Reset (R153, R154, R155): every register 0, every byte of BUF unwritten, the command in flight
abandoned. The fault record stays (R43, R153), and so do the model's own draw counter, turns to come
and setting. -/
def State.resetBlock (s : State) : State :=
  { State.reset with
    faults := s.faults, draws := s.draws, schedule := s.schedule, setting := s.setting }

end Sys2Proof.Machine
end

