-- ==== Sys2Proof/Machine/Operands.lean ====
section
/-! DEFINITION. Where the commands' operands come from: the fixed registers of spec/30_encoding.md
R76, the BUF regions two of them describe (spec/10_state.md R27 to R30), and the bounds check of
spec/20_memory.md R58. No operand comes from the command word but the options A and S. -/

namespace Sys2Proof.Machine

/-- A region of BUF is in bounds (R58), by exact arithmetic. -/
abbrev inBounds (P : Params) (p n : Nat) : Prop := n = 0 ∨ p + n ≤ P.bufSize

/-- The bytes of the data region (R27, R28). -/
def State.dataBytes (s : State) : List Byte :=
  s.buf.readRegion s.draws s.dataPtr.toNat s.dataLen.toNat

/-- The bytes of the wire region (R29, R30). -/
def State.wireBytes (s : State) : List Byte :=
  s.buf.readRegion s.draws s.wirePtr.toNat s.wireLen.toNat

end Sys2Proof.Machine
end

