-- ==== Sys2Proof/Machine/Deserializer.lean ====
section
/-! DEFINITION. The deserializer family: DES with its option bits A and S (spec/41_deserializer.md
R112). The four commands share the steps of R113 to R124. -/

namespace Sys2Proof.Machine

/-- The pad of an accepted input, or WRONG_PADDING (R118, R119, R120). `input` is the whole input,
at least 16 bytes long. -/
def desPad (strict : Bool) (h : Header) (input : List Byte) : Except Raise Nat :=
  let L := input.length
  if h.paddingFlag then
    let p := (input.getD (L - 1) 0).toNat
    if p > L - 16 then .error ⟨.wrongPadding, none⟩
    else if strict && !((input.drop (L - p)).all fun b => b.toNat == p) then
      .error ⟨.wrongPadding, none⟩
    else .ok p
  else .ok 0

/-- The field registers of the decoded packet (R117, R124), with `n` data bytes. -/
def desFields (s : State) (h : Header) (input : List Byte) (n : Nat) : State :=
  { s with
    subtype := h.count
    senderSsrc := wordAt input 4
    name := wordAt input 8
    nameLen := 4#32
    mediaSsrc := wordAt input 12
    dataLen := BitVec.ofNat 32 n }

/-- The decoded packet, with the data left in place (A = 1, R123) or copied (A = 0, R122). -/
def desDeliver (P : Params) (aliased : Bool) (s : State) (h : Header) (input : List Byte) (n : Nat) :
    Except Raise State :=
  if aliased then .ok { desFields s h input n with dataPtr := s.wirePtr + 16#32 }
  else if inBounds P s.dataPtr.toNat n then
    .ok { desFields s h input n with buf := s.buf.store s.dataPtr.toNat ((input.drop 16).take n) }
  else .error ⟨.bufferFault, none⟩

/-- The steps of DES after the header parse (R115, R116, R119 to R124). -/
def desBody (P : Params) (aliased strict : Bool) (s : State) (h : Header) (input : List Byte) :
    Except Raise State :=
  if input.length < 16 then .error ⟨.packetTooShort, none⟩
  else if (h.length.toNat + 1) * 4 ≠ input.length then .error ⟨.invalidLength, none⟩
  else match desPad strict h input with
    | .error r => .error r
    | .ok p => desDeliver P aliased s h input (input.length - 16 - p)

/-- DES (R112): the input bounds check, the header parse, then the body; the order is R137's. -/
def desResult (P : Params) (aliased strict : Bool) (s : State) : Except Raise State :=
  if inBounds P s.wirePtr.toNat s.wireLen.toNat then
    match headerParse P s.wireBytes with
    | .error e => .error ⟨.headerError, some e⟩
    | .ok h => desBody P aliased strict s h s.wireBytes
  else .error ⟨.bufferFault, none⟩

/-- DES: the completion step of word 0x0000_0003 (R112 with A = 0, S = 0). -/
def execDes (s : State) : Host.Outcome State Fault Refusal :=
  .next (s.complete s.wireLen.toNat (desResult s.params false false s))

/-- DES.A: the completion step of word 0x0000_0103 (R112 with A = 1, S = 0). -/
def execDesA (s : State) : Host.Outcome State Fault Refusal :=
  .next (s.complete s.wireLen.toNat (desResult s.params true false s))

/-- DES.S: the completion step of word 0x0000_0203 (R112 with A = 0, S = 1). -/
def execDesS (s : State) : Host.Outcome State Fault Refusal :=
  .next (s.complete s.wireLen.toNat (desResult s.params false true s))

/-- DES.AS: the completion step of word 0x0000_0303 (R112 with A = 1, S = 1). -/
def execDesAS (s : State) : Host.Outcome State Fault Refusal :=
  .next (s.complete s.wireLen.toNat (desResult s.params true true s))

end Sys2Proof.Machine
end

