-- ==== Sys2Proof/Machine/Serializer.lean ====
section
/-! DEFINITION. The serializer family: the padding engine, SIZE and SER (spec/40_serializer.md). -/

namespace Sys2Proof.Machine

/-- The data cap (R7): the source's constant, kept as it is. -/
def dataMax : Nat := 65519

/-- The serializer's pad for `n` data bytes (R94). -/
def padSer (n : Nat) : Nat := (4 - n % 4) % 4

/-- The wire size of a packet with `n` data bytes (R95). -/
def wireSize (n : Nat) : Nat := 16 + n + padSer n

/-- SIZE (R96, R97): the wire size modulo 2^32 into WIRE_LEN; it cannot fail. -/
def sizeResult (s : State) : Except Raise State :=
  .ok { s with wireLen := BitVec.ofNat 32 (wireSize s.dataLen.toNat) }

/-- The header value SER builds (R101). -/
def serHeader (P : Params) (s : State) : Header where
  packetType  := P.ptApp
  length      := BitVec.ofNat 16 (wireSize s.dataLen.toNat / 4 - 1)
  paddingFlag := padSer s.dataLen.toNat != 0
  count       := s.subtype

/-- The bytes SER writes (R104). -/
def serOutput (s : State) (hb : Bytes4) : List Byte :=
  hb.toList ++ be32 s.senderSsrc ++ be32 s.name ++ be32 s.mediaSsrc ++ s.dataBytes
    ++ List.replicate (padSer s.dataLen.toNat) (BitVec.ofNat 8 (padSer s.dataLen.toNat))

/-- SER (R98): its checks in the order of R136, then the write of R105. -/
def serResult (P : Params) (s : State) : Except Raise State :=
  if s.dataLen.toNat > dataMax then .error ⟨.dataTooLarge, none⟩
  else if s.nameLen ≠ 4#32 then .error ⟨.invalidName, none⟩
  else match headerSer P (serHeader P s) with
    | .error e => .error ⟨.headerError, some e⟩
    | .ok hb =>
      if inBounds P s.dataPtr.toNat s.dataLen.toNat ∧ inBounds P s.wirePtr.toNat (wireSize s.dataLen.toNat) then
        .ok { s with
          buf := s.buf.store s.wirePtr.toNat (serOutput s hb)
          wireLen := BitVec.ofNat 32 (wireSize s.dataLen.toNat) }
      else .error ⟨.bufferFault, none⟩

/-- SIZE: the completion step of word 0x0000_0001 (R96). It reads no byte of BUF. -/
def execSize (s : State) : Host.Outcome State Fault Refusal :=
  .next (s.complete 0 (sizeResult s))

/-- SER: the completion step of word 0x0000_0002 (R98). It reads the data region. -/
def execSer (s : State) : Host.Outcome State Fault Refusal :=
  .next (s.complete s.dataLen.toNat (serResult s.params s))

end Sys2Proof.Machine
end

