-- ==== Sys2Proof/Machine/Dispatch.lean ====
section
/-! DEFINITION. One arm per command: the completion step of the command (spec/60_exceptions.md R133,
spec/30_encoding.md R73). -/

namespace Sys2Proof.Machine

def exec (i : Instr) (s : State) : Host.Outcome State Fault Refusal :=
  match i with
  | .size => Sys2Proof.Machine.execSize s
  | .ser => Sys2Proof.Machine.execSer s
  | .des => Sys2Proof.Machine.execDes s
  | .desA => Sys2Proof.Machine.execDesA s
  | .desS => Sys2Proof.Machine.execDesS s
  | .desAS => Sys2Proof.Machine.execDesAS s

end Sys2Proof.Machine
end

