-- ==== Sys2Proof/Machine/HostBus.lean ====
section
/-! DEFINITION. The host's bus accesses: the address map (spec/20_memory.md R48), the access rules
(R49 to R53), the registers (spec/10_state.md R21), and the two BUSY hazards
(spec/70_reset_and_hazards.md R158, R159). -/

namespace Sys2Proof.Machine

/-- The registers of R21. -/
inductive Reg where
  | cmd | status | ctrl | hdrErr
  | subtype | senderSsrc | mediaSsrc | name | nameLen | dataPtr | dataLen | wirePtr | wireLen
  deriving DecidableEq, Repr

/-- The offset of each register (R21). -/
def Reg.offset : Reg → Nat
  | .cmd        => 0x000
  | .status     => 0x004
  | .ctrl       => 0x008
  | .hdrErr     => 0x00C
  | .subtype    => 0x010
  | .senderSsrc => 0x014
  | .mediaSsrc  => 0x018
  | .name       => 0x01C
  | .nameLen    => 0x020
  | .dataPtr    => 0x024
  | .dataLen    => 0x028
  | .wirePtr    => 0x02C
  | .wireLen    => 0x030

/-- All registers, by rising offset. -/
def Reg.all : List Reg :=
  [.cmd, .status, .ctrl, .hdrErr, .subtype, .senderSsrc, .mediaSsrc, .name, .nameLen, .dataPtr,
    .dataLen, .wirePtr, .wireLen]

/-- The register at an offset, if there is one (R21). -/
def Reg.ofOffset (o : Nat) : Option Reg := Reg.all.find? fun r => r.offset == o

/-- The field registers, offsets 0x010 to 0x030: written while BUSY = 1 they are a hazard (R158). -/
def Reg.isField : Reg → Bool
  | .cmd | .status | .ctrl | .hdrErr => false
  | .subtype | .senderSsrc | .mediaSsrc | .name | .nameLen | .dataPtr | .dataLen | .wirePtr
  | .wireLen => true

/-- The registers whose reads are unspecified while BUSY = 1: HDR_ERR and the field registers (R159). -/
def Reg.heldWhileBusy (r : Reg) : Bool := r.isField || r == .hdrErr

/-- The value of a register as the host reads it (R21 to R40): CMD reads 0 (R32), and the bits that
are not implemented read 0. -/
def State.regValue (s : State) : Reg → Word
  | .cmd        => 0
  | .status     => s.statusWord
  | .ctrl       => (BitVec.ofBool s.ie).setWidth 32
  | .hdrErr     => s.hdrErr
  | .subtype    => s.subtype.setWidth 32
  | .senderSsrc => s.senderSsrc
  | .mediaSsrc  => s.mediaSsrc
  | .name       => s.name
  | .nameLen    => s.nameLen
  | .dataPtr    => s.dataPtr
  | .dataLen    => s.dataLen
  | .wirePtr    => s.wirePtr
  | .wireLen    => s.wireLen

/-- A host write to a register, with no hazard (R21, R22, R32, R38, R39). HDR_ERR is read-only and
ignores the write (log entry 8). -/
def State.setReg (s : State) (v : Word) : Reg → State
  | .cmd        => s.writeCmd v
  | .status     => s.ackStatus v
  | .ctrl       => { s with ie := v.getLsbD 0 }
  | .hdrErr     => s
  | .subtype    => { s with subtype := v.setWidth 5 }
  | .senderSsrc => { s with senderSsrc := v }
  | .mediaSsrc  => { s with mediaSsrc := v }
  | .name       => { s with name := v }
  | .nameLen    => { s with nameLen := v }
  | .dataPtr    => { s with dataPtr := v }
  | .dataLen    => { s with dataLen := v }
  | .wirePtr    => { s with wirePtr := v }
  | .wireLen    => { s with wireLen := v }

/-- The end of register space (R48). -/
def regSpaceEnd : Nat := 0x1000

/-- The offset of BUF[0] in the host's window (R48). -/
def bufBase : Nat := 0x01000000

/-- What an access reaches (R48, R53). -/
inductive Target where
  | illegal
  | reserved
  | reg (r : Reg)
  | buf (a : Nat)
  deriving DecidableEq, Repr

/-- Outside register space: the BUF window, or reserved (R48). -/
def windowTarget (P : Params) (o : Nat) : Target :=
  if bufBase ≤ o ∧ o < bufBase + P.bufSize then .buf (o - bufBase) else .reserved

/-- The target of an access of `width` bits at offset `o` (R48, R49, R50, R51, R52, R53). -/
def target (P : Params) (width o : Nat) : Target :=
  if width = 32 then
    if o % 4 ≠ 0 then .illegal
    else if o < regSpaceEnd then
      match Reg.ofOffset o with
      | some r => .reg r
      | none => .reserved
    else windowTarget P o
  else if width = 8 then
    if o < regSpaceEnd then .illegal else windowTarget P o
  else .illegal

/-- The bus answers with `r`. -/
def State.respond (s : State) (r : Response) : State := { s with response := some r }

/-- An illegal access (R53): an error response, HostBusError recorded, no effect on block state. -/
def State.busError (s : State) : State :=
  { s with faults := { s.faults with hostBusError := true }, response := some .busError }

/-- A hazard write (R158): HazardWrite recorded and the command in flight marked, so that its
completion leaves what the write and the command could have changed unspecified (log entry 4). -/
def State.hazard (s : State) : State :=
  { s with
    faults := { s.faults with hazardWrite := true }, tainted := true, response := some .written }

/-- A read that returns a draw (R159): a fresh value of the access's width, no other effect. -/
def State.respondDraw (s : State) (width : Nat) : State :=
  { s with
    response := some (if width = 8 then .byte (Config.freeByte s.draws)
      else .word (Config.freeWord s.draws))
    draws := s.draws + 1 }

/-- A read of a reserved offset returns 0 (R52). -/
def zeroResponse (width : Nat) : Response := if width = 8 then .byte 0 else .word 0

/-- A host read of BUF with BUSY = 0 (R50, R51); an unwritten byte reads as a draw (R154). -/
def State.readBuf (s : State) (width a : Nat) : State :=
  if width = 8 then { s.respond (.byte (s.buf.read s.draws a)) with draws := s.draws + 1 }
  else { s.respond (.word (wordAt (s.buf.readRegion s.draws a 4) 0)) with draws := s.draws + 4 }

/-- The bytes a host write of `v` stores: one byte, or a word big-endian (R50, R51). -/
def storedBytes (width : Nat) (v : Word) : List Byte :=
  if width = 8 then [v.setWidth 8] else be32 v

/-- A host read (R49 to R53, R159). No read has a side effect on the block (R61). -/
def State.hostRead (s : State) (width : Nat) (offset : Offset) : State :=
  match target s.params width offset.toNat with
  | .illegal => s.busError
  | .reserved => s.respond (zeroResponse width)
  | .reg r =>
    if s.busy && r.heldWhileBusy then s.respondDraw width else s.respond (.word (s.regValue r))
  | .buf a => if s.busy then s.respondDraw width else s.readBuf width a

/-- A host write (R49 to R53, R158). -/
def State.hostWrite (s : State) (width : Nat) (offset : Offset) (v : Word) : State :=
  match target s.params width offset.toNat with
  | .illegal => s.busError
  | .reserved => s.respond .written
  | .reg r => if s.busy && r.isField then s.hazard else (s.setReg v r).respond .written
  | .buf a =>
    if s.busy then s.hazard
    else { s with buf := s.buf.store a (storedBytes width v) }.respond .written

/-- One host access. -/
def State.hostAccess (s : State) : Access → State
  | .read width offset => s.hostRead width offset
  | .write width offset v => s.hostWrite width offset v

end Sys2Proof.Machine
end

