-- ==== Sys2Proof/Machine/Engine.lean ====
section
/-! DEFINITION. The turns of the two agents (spec/00_scope.md R5): the Engine's completion step
(spec/60_exceptions.md R133), a host access, and reset (spec/70_reset_and_hazards.md R152). -/

namespace Sys2Proof.Machine

/-- The Engine's turn: idle while BUSY = 0 (R151), and else the completion step (R133), which decodes
`cur` first (R138). A command a hazard write hit completes with unspecified results (R158). -/
def engineTurn (s : State) : Host.Outcome State Fault Refusal :=
  if s.busy then
    if s.tainted then .next s.completeTainted
    else match decode s.cur with
      | .ok i => exec i s
      | .error _ => .next s.completeBad
  else .next s

/-- One turn: reset takes precedence over whatever else would happen (R145, R152). -/
def takeTurn (t : Turn) (s : State) : Host.Outcome State Fault Refusal :=
  if t.reset then .next s.resetBlock
  else match t.action with
    | .engine => engineTurn s
    | .access a => .next (s.hostAccess a)

end Sys2Proof.Machine
end

