-- ==== Sys2Proof/Machine/Step.lean ====
section
/-! DEFINITION. One step (spec/20_memory.md R62): the next turn of the schedule, and the Engine's
turn when the schedule is empty. -/

namespace Sys2Proof.Machine

/-- One step of the block. Every order of host accesses, resets and completion steps is the schedule
of some state (R62, R145), and a command in flight completes once the schedule has run out (R163). -/
def step (s : State) : Host.Outcome State Fault Refusal :=
  match s.schedule with
  | [] => engineTurn s
  | t :: rest => takeTurn t { s with schedule := rest }

/-- The state in which the next step runs the command whose bits are `w`: the word is issued (R132)
and the Engine has the next turn. The block fetches nothing (R66): a command comes to run by the
Host's write to CMD, and this stands for it (log entry 6). -/
def State.withFetchWord (s : State) (nbits w : Nat) : State :=
  { s.issue (tableWord nbits w) with
    tainted := false, schedule := ⟨false, .engine⟩ :: s.schedule }

end Sys2Proof.Machine
end

