-- ==== Sys2Proof/Safety.lean ====
section
/-! DEFINITION. What counts as a safe state (spec/10_state.md R43: every claim about a run takes
"faults is empty" as a premise), and the invariant every step keeps. -/

namespace Sys2Proof.Machine

/-- No model fault has been recorded (R43). -/
def State.Safe (s : State) : Prop := s.faults = FaultSet.empty

/-- What holds of every state of a run: BUF is in canonical form and inside its bounds (R31), CODE is
no reserved code (R131), HDR_ERR holds a zero-extended HDR_ERR_W-bit value (R40), BUSY and DONE are
never both set (R132, R133), and a mark of a hazard write goes with a command in flight and a
recorded HazardWrite (R158). -/
structure State.Inv (s : State) : Prop where
  bufCanonical : s.buf.wf
  bufBounded   : s.buf.inBuf s.params.bufSize
  codeNamed    : s.code ≤ 8#4
  hdrErrWidth  : s.hdrErr.toNat < 2 ^ s.params.hdrErrW
  oneOfBusyDone : ¬ (s.busy = true ∧ s.done = true)
  taintedBusy  : s.tainted = true → s.busy = true ∧ s.faults.hazardWrite = true

/-- The turn the next step takes: the head of the schedule, and the Engine's when it is empty. -/
def State.nextTurn (s : State) : Turn := s.schedule.headD ⟨false, .engine⟩

/-- The state that turn acts on: the turn is taken off the schedule. -/
def State.popTurn (s : State) : State := { s with schedule := s.schedule.tail }

/-- The Host has the next turn, with one access, and the reset input is not asserted. -/
def State.hostNext (s : State) (a : Access) : Prop := s.nextTurn = ⟨false, .access a⟩

/-- The Engine has the next turn, a command is in flight, and no hazard write has hit it. -/
def State.completesNext (s : State) : Prop :=
  s.nextTurn = ⟨false, .engine⟩ ∧ s.busy = true ∧ s.tainted = false

/-- The status report of a completion with code `c` (R133), and nothing else: `reads` draws are used up,
and no hazard write marks a command any more. -/
def State.reported (s : State) (c : BitVec 4) (reads : Nat) : State :=
  { s with code := c, busy := false, done := true, tainted := false, draws := s.draws + reads }

/-- `p` is the pad DES accepts (R118, R119, R120): 0 with the flag clear, and with it set the last
input byte, no more than the bytes after the fixed 16, and with S = 1 equal to each of the last `p`. -/
def padAccepted (strict : Bool) (h : Header) (input : List Byte) (p : Nat) : Prop :=
  if h.paddingFlag then
    p = (input.getD (input.length - 1) 0).toNat ∧ p ≤ input.length - 16 ∧
      (strict = true → ∀ i, input.length - p ≤ i → i < input.length → (input.getD i 0).toNat = p)
  else p = 0

/-- DES gets past its checks of the input with header `h` and pad `p` (R113 to R120). -/
structure State.DesInput (s : State) (strict : Bool) (h : Header) (p : Nat) : Prop where
  bounded : inBounds s.params s.wirePtr.toNat s.wireLen.toNat
  parsed  : s.params.hc.parse s.wireBytes = .ok h
  long    : 16 ≤ s.wireLen.toNat
  matched : (h.length.toNat + 1) * 4 = s.wireLen.toNat
  padded  : padAccepted strict h s.wireBytes p

/-- SER gets past all its checks with header bytes `hb` (R99, R100, R102, R103). -/
structure State.SerInput (s : State) (hb : Bytes4) : Prop where
  capped      : s.dataLen.toNat ≤ 65519
  named       : s.nameLen = 4#32
  headed      : s.params.hc.ser (serHeader s.params s) = .ok hb
  dataBounded : inBounds s.params s.dataPtr.toNat s.dataLen.toNat
  wireBounded : inBounds s.params s.wirePtr.toNat (wireSize s.dataLen.toNat)

end Sys2Proof.Machine
end

