-- ==== Sys2Proof/Certificates/Slice0/Obligations.lean ====
section
/-! DEFINITION. The statements about the model, for the provers. A docstring names the rules of spec/
that its statement formalises. -/

open Sys2Proof Sys2Proof.Machine

/-! ## Encoding -/

/-- R73: the six legal command words. -/
def Obligations.SixCommandWordsDecode : Prop :=
  decode 0x00000001#32 = .ok .size ∧ decode 0x00000002#32 = .ok .ser ∧
  decode 0x00000003#32 = .ok .des ∧ decode 0x00000103#32 = .ok .desA ∧
  decode 0x00000203#32 = .ok .desS ∧ decode 0x00000303#32 = .ok .desAS

/-- R69 to R73: decoding and encoding agree in both directions, over all 2^32 words, and the words
that decode are those whose fields are well formed. -/
def Obligations.DecodeAgreesWithEncode : Prop :=
  (∀ i : Instr, i.wellFormed = true → decode (encode i) = .ok i) ∧
  (∀ (w : Word) (i : Instr), decode w = .ok i → encode i = w) ∧
  (∀ w : Word, (∃ i, decode w = .ok i) ↔ (Cmd32.ofWord w).wellFormed = true)

/-- R72, R73: the decoder on every word, by the word's number; every word decodes to one command or is
reserved. -/
def Obligations.DecodeByFieldValues : Prop :=
  (∀ w : Word,
    (w.toNat / 1024 ≠ 0 → ∃ e, decode w = .error e) ∧
    (w.toNat / 1024 = 0 →
      (w.toNat % 256 = 1 → w.toNat / 256 % 4 = 0 → decode w = .ok .size) ∧
      (w.toNat % 256 = 2 → w.toNat / 256 % 4 = 0 → decode w = .ok .ser) ∧
      (w.toNat % 256 = 3 → decode w = .ok (desForm (w.getLsbD 8) (w.getLsbD 9))) ∧
      (w.toNat % 256 = 1 ∨ w.toNat % 256 = 2 → w.toNat / 256 % 4 ≠ 0 → ∃ e, decode w = .error e) ∧
      (w.toNat % 256 ≠ 1 → w.toNat % 256 ≠ 2 → w.toNat % 256 ≠ 3 → ∃ e, decode w = .error e))) ∧
  desForm false false = .des ∧ desForm true false = .desA ∧ desForm false true = .desS ∧
  desForm true true = .desAS

/-! ## Steps -/

/-- R133: when the Engine has the next turn and the word in flight decodes to `i`, the step is exec of
`i` on the state less that turn. -/
def Obligations.StepRunsTheDecodedCommand : Prop :=
  ∀ (s : State) (i : Instr), s.completesNext → decode s.cur = .ok i → step s = exec i s.popTurn

/-- The word placed by withFetchWord is the one the next step runs, on the state the issue step leaves
(R132) with no hazard mark. -/
def Obligations.PlacedWordIsRunNext : Prop :=
  ∀ (s : State) (i : Instr),
    step (s.withFetchWord 32 (encode i).toNat) =
      exec i { s with cur := encode i, busy := true, done := false, tainted := false }

/-- R74: a reserved word is issued like any other, and its completion writes STATUS with BAD_COMMAND
and nothing else. -/
def Obligations.ReservedWordCompletesBadCommand : Prop :=
  ∀ (s : State) (w : Word) (e : BadWord), decode w = .error e →
    (s.hostNext (.write 32 0 w) → s.busy = false →
      step s = .next { s.popTurn with
        cur := w, busy := true, done := false, response := some .written }) ∧
    (s.completesNext → s.cur = w →
      step s = .next { s.popTurn with code := 8#4, busy := false, done := true })

/-- R16, R163: no step stops: every step of every state answers a next state; and the parameters the
state runs with never change (R20). -/
def Obligations.EveryStepAnswersNext : Prop :=
  ∀ s : State, ∃ t, step s = .next t ∧ t.params = s.params

/-- R163: a command in flight completes after the turns scheduled before it, at the latest one step
after the schedule has run out, unless a reset abandons it. -/
def Obligations.CommandInFlightCompletes : Prop :=
  ∀ s : State, s.busy = true → (∀ t ∈ s.schedule, t.reset = false) →
    ∃ k ≤ s.schedule.length + 1, ∃ t, core.run k s = .next t ∧ t.busy = false ∧ t.done = true

/-- R133, R131: every command, whatever the state, completes: BUSY clear, DONE set, one of the nine
codes in CODE, and OVR, CTRL, the latched word, the fault record and the model's own fields other than
the draw counter and the hazard mark untouched. -/
def Obligations.EveryCommandReportsCompletion : Prop :=
  ∀ (i : Instr) (s : State), ∃ t, exec i s = .next t ∧
    t.busy = false ∧ t.done = true ∧ t.code ≤ 8#4 ∧
    t.ovr = s.ovr ∧ t.ie = s.ie ∧ t.cur = s.cur ∧ t.faults = s.faults ∧
    t.schedule = s.schedule ∧ t.response = s.response ∧ t.setting = s.setting

/-- R134: a completion with an error writes STATUS, and HDR_ERR when the error is HEADER_ERROR; no
other register and no byte of BUF. -/
def Obligations.FailedCommandWritesOnlyStatus : Prop :=
  ∀ s : State, s.completesNext → ∃ t n, step s = .next t ∧
    (t.code ≠ 0#4 → t.code ≠ 6#4 → t = s.popTurn.reported t.code n) ∧
    (t.code = 6#4 → t = { s.popTurn with hdrErr := t.hdrErr }.reported 6#4 n)

/-- R135: HDR_ERR is written exactly by a completion with HEADER_ERROR, with the Header Codec's own
error, zero-extended. -/
def Obligations.HdrErrHoldsTheCodecError : Prop :=
  ∀ s : State, s.completesNext → ∃ t, step s = .next t ∧
    (t.code ≠ 6#4 → t.hdrErr = s.hdrErr) ∧
    (t.code = 6#4 → ∃ e : BitVec s.params.hdrErrW, t.hdrErr.toNat = e.toNat ∧
      ((decode s.cur = .ok .ser ∧ s.params.hc.ser (serHeader s.params s) = .error e) ∨
       (∃ a st, decode s.cur = .ok (desForm a st) ∧ s.params.hc.parse s.wireBytes = .error e)))

/-! ## SIZE -/

/-- R94, R95: the pad and the wire size. -/
def Obligations.PadAndWireSize : Prop :=
  ∀ n : Nat,
    padSer n = (4 - n % 4) % 4 ∧ padSer n ≤ 3 ∧ wireSize n = 16 + n + padSer n ∧ wireSize n % 4 = 0 ∧
    (n % 4 = 0 → padSer n = 0) ∧ (n % 4 = 1 → padSer n = 3) ∧ (n % 4 = 2 → padSer n = 2) ∧
    (n % 4 = 3 → padSer n = 1)

/-- R96: SIZE writes the wire size modulo 2^32 into WIRE_LEN and completes with OK, from every state;
nothing else changes. -/
def Obligations.SizeWritesWireLen : Prop :=
  encode .size = 0x00000001#32 ∧
  ∀ s : State, exec .size s = .next ({ s with
    wireLen := BitVec.ofNat 32
      ((16 + s.dataLen.toNat + (4 - s.dataLen.toNat % 4) % 4) % 2 ^ 32) }.reported 0#4 0)

/-- R97: where the SIZE result is exact, and the five ranges where it wraps. -/
def Obligations.SizeWrapsAboveTwoToThe32 : Prop :=
  ∀ s : State, ∃ t, exec .size s = .next t ∧
    (s.dataLen.toNat ≤ 0xFFFFFFEC → t.wireLen.toNat = wireSize s.dataLen.toNat) ∧
    (0xFFFFFFED ≤ s.dataLen.toNat → s.dataLen.toNat ≤ 0xFFFFFFF0 → t.wireLen = 0#32) ∧
    (0xFFFFFFF1 ≤ s.dataLen.toNat → s.dataLen.toNat ≤ 0xFFFFFFF4 → t.wireLen = 4#32) ∧
    (0xFFFFFFF5 ≤ s.dataLen.toNat → s.dataLen.toNat ≤ 0xFFFFFFF8 → t.wireLen = 8#32) ∧
    (0xFFFFFFF9 ≤ s.dataLen.toNat → s.dataLen.toNat ≤ 0xFFFFFFFC → t.wireLen = 12#32) ∧
    (0xFFFFFFFD ≤ s.dataLen.toNat → t.wireLen = 16#32) ∧
    t.wireLen.toNat % 4 = 0

/-! ## SER -/

/-- R99, R100: SER's first two checks, in their order; each precedes every other check, reads no
byte of BUF and changes nothing but STATUS. -/
def Obligations.SerChecksCapThenNameLength : Prop :=
  ∀ s : State,
    (65519 < s.dataLen.toNat → exec .ser s = .next (s.reported 1#4 s.dataLen.toNat)) ∧
    (s.dataLen.toNat ≤ 65519 → s.nameLen ≠ 4#32 →
      exec .ser s = .next (s.reported 2#4 s.dataLen.toNat)) ∧
    (∃ t, exec .ser s = .next t ∧ (s.dataLen.toNat ≤ 65519 → t.code ≠ 1#4) ∧
      (s.nameLen = 4#32 → t.code ≠ 2#4))

/-- R101, R108: the header value SER builds, whose length field is never truncated. -/
def Obligations.SerHeaderValue : Prop :=
  ∀ s : State, s.dataLen.toNat ≤ 65519 →
    (serHeader s.params s).packetType = s.params.ptApp ∧
    (serHeader s.params s).length.toNat = wireSize s.dataLen.toNat / 4 - 1 ∧
    ((serHeader s.params s).paddingFlag = true ↔ s.dataLen.toNat % 4 ≠ 0) ∧
    (serHeader s.params s).count = s.subtype ∧
    3 ≤ (serHeader s.params s).length.toNat ∧ (serHeader s.params s).length.toNat ≤ 16383 ∧
    ((serHeader s.params s).length.toNat = 3 ↔ s.dataLen = 0#32) ∧
    ((serHeader s.params s).length.toNat = 16383 ↔ 65517 ≤ s.dataLen.toNat)

/-- R102: the Header Codec's error ends SER with HEADER_ERROR and stands in HDR_ERR; and else its four
bytes are wire bytes 0 to 3 of what SER writes. -/
def Obligations.SerReportsHeaderError : Prop :=
  ∀ s : State, s.dataLen.toNat ≤ 65519 → s.nameLen = 4#32 →
    (∀ e, s.params.hc.ser (serHeader s.params s) = .error e →
      exec .ser s = .next ({ s with hdrErr := e.setWidth 32 }.reported 6#4 s.dataLen.toNat)) ∧
    (∀ hb, s.params.hc.ser (serHeader s.params s) = .ok hb →
      ∃ t, exec .ser s = .next t ∧ t.code ≠ 6#4 ∧ t.hdrErr = s.hdrErr ∧
        (t.code = 0#4 → ∀ i < 4, t.buf.cell (s.wirePtr.toNat + i) = hb.toList[i]?))

/-- R103: a region out of bounds ends SER with BUFFER_FAULT, after the checks of R99, R100 and R102. -/
def Obligations.SerReportsBufferFault : Prop :=
  ∀ (s : State) (hb : Bytes4), s.dataLen.toNat ≤ 65519 → s.nameLen = 4#32 →
    s.params.hc.ser (serHeader s.params s) = .ok hb →
    (s.dataLen.toNat ≠ 0 ∧ s.params.bufSize < s.dataPtr.toNat + s.dataLen.toNat) ∨
      s.params.bufSize < s.wirePtr.toNat + wireSize s.dataLen.toNat →
    exec .ser s = .next (s.reported 7#4 s.dataLen.toNat)

/-- R104, R105: SER past its checks writes the packet's bytes at WIRE_PTR, in the order of R104, and
WIRE_LEN; every other byte of BUF and every other register keeps its value. The data bytes are read
from the buffer as it stood when the step began. -/
def Obligations.SerWritesThePacket : Prop :=
  ∀ (s : State) (hb : Bytes4), s.SerInput hb →
    ∃ t, exec .ser s = .next t ∧
      t = { s with buf := t.buf, wireLen := BitVec.ofNat 32 (wireSize s.dataLen.toNat) }.reported
        0#4 s.dataLen.toNat ∧
      t.wireLen.toNat = wireSize s.dataLen.toNat ∧
      (t.buf.cell s.wirePtr.toNat = some hb.b0 ∧ t.buf.cell (s.wirePtr.toNat + 1) = some hb.b1 ∧
        t.buf.cell (s.wirePtr.toNat + 2) = some hb.b2 ∧
        t.buf.cell (s.wirePtr.toNat + 3) = some hb.b3) ∧
      (∀ i < 4,
        t.buf.cell (s.wirePtr.toNat + 4 + i) = some (s.senderSsrc.extractLsb' (24 - 8 * i) 8) ∧
        t.buf.cell (s.wirePtr.toNat + 8 + i) = some (s.name.extractLsb' (24 - 8 * i) 8) ∧
        t.buf.cell (s.wirePtr.toNat + 12 + i) = some (s.mediaSsrc.extractLsb' (24 - 8 * i) 8)) ∧
      (∀ i < s.dataLen.toNat, t.buf.cell (s.wirePtr.toNat + 16 + i) =
        some (s.buf.read (s.draws + i) (s.dataPtr.toNat + i))) ∧
      (∀ i < padSer s.dataLen.toNat, t.buf.cell (s.wirePtr.toNat + 16 + s.dataLen.toNat + i) =
        some (BitVec.ofNat 8 (padSer s.dataLen.toNat))) ∧
      (∀ a, a < s.wirePtr.toNat ∨ s.wirePtr.toNat + wireSize s.dataLen.toNat ≤ a →
        t.buf.cell a = s.buf.cell a)

/-- R106: whatever its outcome, SER leaves its eight input registers as they were, and every byte of BUF
outside the wire region; with an error it leaves all of BUF and WIRE_LEN. -/
def Obligations.SerFrame : Prop :=
  ∀ s : State, ∃ t, exec .ser s = .next t ∧
    t.subtype = s.subtype ∧ t.senderSsrc = s.senderSsrc ∧ t.mediaSsrc = s.mediaSsrc ∧
    t.name = s.name ∧ t.nameLen = s.nameLen ∧ t.dataPtr = s.dataPtr ∧ t.dataLen = s.dataLen ∧
    t.wirePtr = s.wirePtr ∧ t.ovr = s.ovr ∧ t.ie = s.ie ∧ t.cur = s.cur ∧ t.faults = s.faults ∧
    (t.code ≠ 6#4 → t.hdrErr = s.hdrErr) ∧
    (t.code ≠ 0#4 → t.wireLen = s.wireLen ∧ ∀ a, t.buf.cell a = s.buf.cell a) ∧
    (∀ a, a < s.wirePtr.toNat ∨ s.wirePtr.toNat + wireSize s.dataLen.toNat ≤ a →
      t.buf.cell a = s.buf.cell a)

/-- R136: which code SER reports when several causes apply. -/
def Obligations.SerErrorPriority : Prop :=
  ∀ s : State, ∃ t, exec .ser s = .next t ∧
    t.code = if 65519 < s.dataLen.toNat then 1#4
      else if s.nameLen ≠ 4#32 then 2#4
      else match s.params.hc.ser (serHeader s.params s) with
        | .error _ => 6#4
        | .ok _ =>
          if (s.dataLen.toNat = 0 ∨ s.dataPtr.toNat + s.dataLen.toNat ≤ s.params.bufSize) ∧
            s.wirePtr.toNat + wireSize s.dataLen.toNat ≤ s.params.bufSize then 0#4
          else 7#4

/-- R109: SER and SIZE agree on the size, which is exact. -/
def Obligations.SerAndSizeAgree : Prop :=
  ∀ s : State, ∃ t u, exec .ser s = .next t ∧ exec .size s = .next u ∧
    (t.code = 0#4 → t.wireLen = u.wireLen ∧ t.wireLen.toNat = wireSize s.dataLen.toNat)

/-- R110: every WIRE_LEN that SIZE or SER writes is a multiple of 4, and SER's lie in 16 to 65536. -/
def Obligations.WrittenWireLenIsAligned : Prop :=
  ∀ s : State, ∃ t u, exec .size s = .next t ∧ exec .ser s = .next u ∧
    t.wireLen.toNat % 4 = 0 ∧
    (u.code = 0#4 → u.wireLen.toNat % 4 = 0 ∧ 16 ≤ u.wireLen.toNat ∧ u.wireLen.toNat ≤ 65536)

/-! ## DES -/

/-- R113: an input region out of bounds ends every form of DES with BUFFER_FAULT before any other
step, and otherwise the input is the WIRE_LEN bytes from WIRE_PTR on. -/
def Obligations.DesChecksInputBoundsFirst : Prop :=
  ∀ (a st : Bool) (s : State),
    (s.wireLen.toNat ≠ 0 ∧ s.params.bufSize < s.wirePtr.toNat + s.wireLen.toNat →
      exec (desForm a st) s = .next (s.reported 7#4 s.wireLen.toNat)) ∧
    s.wireBytes.length = s.wireLen.toNat ∧
    (∀ i < s.wireLen.toNat,
      s.wireBytes[i]? = some (s.buf.read (s.draws + i) (s.wirePtr.toNat + i)))

/-- R114: the Header Codec's error on the input ends every form of DES with HEADER_ERROR, before the
length checks; with none, DES goes on; an input of 4 bytes or more is judged by its first 4. -/
def Obligations.DesReportsHeaderError : Prop :=
  ∀ (a st : Bool) (s : State), inBounds s.params s.wirePtr.toNat s.wireLen.toNat →
    (∀ e, s.params.hc.parse s.wireBytes = .error e →
      exec (desForm a st) s = .next ({ s with hdrErr := e.setWidth 32 }.reported 6#4 s.wireLen.toNat)) ∧
    (∀ h, s.params.hc.parse s.wireBytes = .ok h →
      ∃ t, exec (desForm a st) s = .next t ∧ t.code ≠ 6#4 ∧ t.hdrErr = s.hdrErr) ∧
    (4 ≤ s.wireLen.toNat →
      s.params.hc.parse s.wireBytes = s.params.hc.parse (s.wireBytes.take 4))

/-- R115, R116: after the header parse, an input shorter than 16 bytes ends every form of DES with
PACKET_TOO_SHORT, and one whose length is not the declared one with INVALID_LENGTH; the declared length
is computed exactly, so an input above 262144 bytes, or of no multiple of 4, is always such a one. -/
def Obligations.DesChecksLengths : Prop :=
  ∀ (a st : Bool) (s : State) (h : Header), inBounds s.params s.wirePtr.toNat s.wireLen.toNat →
    s.params.hc.parse s.wireBytes = .ok h →
    (s.wireLen.toNat < 16 → exec (desForm a st) s = .next (s.reported 3#4 s.wireLen.toNat)) ∧
    (16 ≤ s.wireLen.toNat → (h.length.toNat + 1) * 4 ≠ s.wireLen.toNat →
      exec (desForm a st) s = .next (s.reported 4#4 s.wireLen.toNat)) ∧
    (262144 < s.wireLen.toNat ∨ (16 ≤ s.wireLen.toNat ∧ s.wireLen.toNat % 4 ≠ 0) →
      exec (desForm a st) s = .next (s.reported 4#4 s.wireLen.toNat))

/-- R118, R119: with the padding flag set the pad is the last input byte, and one above the number of
bytes after the fixed 16 ends every form of DES with WRONG_PADDING, while S = 0 accepts any other; with
the flag clear the pad is 0 and no form reports WRONG_PADDING. -/
def Obligations.DesBoundsThePadByte : Prop :=
  ∀ (a st : Bool) (s : State) (h : Header), inBounds s.params s.wirePtr.toNat s.wireLen.toNat →
    s.params.hc.parse s.wireBytes = .ok h → 16 ≤ s.wireLen.toNat →
    (h.length.toNat + 1) * 4 = s.wireLen.toNat →
    (h.paddingFlag = true →
      s.wireLen.toNat - 16 < (s.wireBytes.getD (s.wireLen.toNat - 1) 0).toNat →
      exec (desForm a st) s = .next (s.reported 5#4 s.wireLen.toNat)) ∧
    (h.paddingFlag = true →
      (s.wireBytes.getD (s.wireLen.toNat - 1) 0).toNat ≤ s.wireLen.toNat - 16 →
      ∃ t, exec (desForm a false) s = .next t ∧ t.code ≠ 5#4 ∧ (t.code = 0#4 →
        t.dataLen.toNat =
          s.wireLen.toNat - 16 - (s.wireBytes.getD (s.wireLen.toNat - 1) 0).toNat)) ∧
    (h.paddingFlag = false →
      ∃ t, exec (desForm a st) s = .next t ∧ t.code ≠ 5#4 ∧
        (t.code = 0#4 → t.dataLen.toNat = s.wireLen.toNat - 16))

/-- R120: S = 0 examines no padding byte but the last; with S = 1 and the flag set, a padding byte that
differs from the pad count ends DES with WRONG_PADDING; when none differs, and when the flag is clear,
S = 1 does what S = 0 does. -/
def Obligations.StrictPaddingChecksEveryByte : Prop :=
  ∀ (a : Bool) (s : State) (h : Header) (p : Nat), s.DesInput false h p →
    (∃ t, exec (desForm a false) s = .next t ∧ t.code ≠ 5#4) ∧
    (h.paddingFlag = true →
      (∃ i, s.wireLen.toNat - p ≤ i ∧ i < s.wireLen.toNat ∧ (s.wireBytes.getD i 0).toNat ≠ p) →
      exec (desForm a true) s = .next (s.reported 5#4 s.wireLen.toNat)) ∧
    (h.paddingFlag = false ∨
      (∀ i, s.wireLen.toNat - p ≤ i → i < s.wireLen.toNat → (s.wireBytes.getD i 0).toNat = p) →
      exec (desForm a true) s = exec (desForm a false) s)

/-- R122: DES and DES.S past their checks of the input. With the destination out of bounds they end
with BUFFER_FAULT. With it in bounds the data bytes are copied to DATA_PTR from the input as it stood,
the field registers are loaded, and nothing else changes, DATA_PTR included. -/
def Obligations.DesCopiesThePacket : Prop :=
  ∀ (st : Bool) (s : State) (h : Header) (p : Nat), s.DesInput st h p →
    (s.wireLen.toNat - 16 - p ≠ 0 ∧
        s.params.bufSize < s.dataPtr.toNat + (s.wireLen.toNat - 16 - p) →
      exec (desForm false st) s = .next (s.reported 7#4 s.wireLen.toNat)) ∧
    (inBounds s.params s.dataPtr.toNat (s.wireLen.toNat - 16 - p) →
      ∃ t, exec (desForm false st) s = .next t ∧
        t = { s with
          subtype := h.count
          senderSsrc := wordAt s.wireBytes 4
          name := wordAt s.wireBytes 8
          nameLen := 4#32
          mediaSsrc := wordAt s.wireBytes 12
          dataLen := BitVec.ofNat 32 (s.wireLen.toNat - 16 - p)
          buf := t.buf }.reported 0#4 s.wireLen.toNat ∧
        t.dataLen.toNat = s.wireLen.toNat - 16 - p ∧
        (∀ i < s.wireLen.toNat - 16 - p,
          t.buf.cell (s.dataPtr.toNat + i) = s.wireBytes[16 + i]?) ∧
        (∀ x, x < s.dataPtr.toNat ∨ s.dataPtr.toNat + (s.wireLen.toNat - 16 - p) ≤ x →
          t.buf.cell x = s.buf.cell x))

/-- R123: DES.A and DES.AS past their checks of the input: DATA_PTR points 16 bytes into the wire
region, without wrapping, the field registers are loaded, no byte of BUF is written, and nothing else
changes; no BUFFER_FAULT can arise once the input is in bounds. -/
def Obligations.DesAliasesThePacket : Prop :=
  (∀ (st : Bool) (s : State) (h : Header) (p : Nat), s.DesInput st h p →
    exec (desForm true st) s = .next ({ s with
      subtype := h.count
      senderSsrc := wordAt s.wireBytes 4
      name := wordAt s.wireBytes 8
      nameLen := 4#32
      mediaSsrc := wordAt s.wireBytes 12
      dataLen := BitVec.ofNat 32 (s.wireLen.toNat - 16 - p)
      dataPtr := s.wirePtr + 16#32 }.reported 0#4 s.wireLen.toNat) ∧
    (s.wirePtr + 16#32).toNat = s.wirePtr.toNat + 16) ∧
  (∀ (st : Bool) (s : State), inBounds s.params s.wirePtr.toNat s.wireLen.toNat →
    ∃ t, exec (desForm true st) s = .next t ∧ t.code ≠ 7#4)

/-- R117, R124: every form of DES, past its checks, loads the field registers from the input bytes as
big-endian words, NAME_LEN with 4 and DATA_LEN with the data length, and completes with OK. -/
def Obligations.DesLoadsTheFields : Prop :=
  ∀ (a st : Bool) (s : State) (h : Header) (p : Nat), s.DesInput st h p →
    (a = false → inBounds s.params s.dataPtr.toNat (s.wireLen.toNat - 16 - p)) →
    ∃ (t : State) (b : Nat → Byte), exec (desForm a st) s = .next t ∧ t.code = 0#4 ∧
      (∀ k < 16, s.wireBytes[k]? = some (b k)) ∧
      t.subtype = h.count ∧
      t.senderSsrc.toNat =
        (b 4).toNat * 2 ^ 24 + (b 5).toNat * 2 ^ 16 + (b 6).toNat * 2 ^ 8 + (b 7).toNat ∧
      t.name.toNat =
        (b 8).toNat * 2 ^ 24 + (b 9).toNat * 2 ^ 16 + (b 10).toNat * 2 ^ 8 + (b 11).toNat ∧
      t.mediaSsrc.toNat =
        (b 12).toNat * 2 ^ 24 + (b 13).toNat * 2 ^ 16 + (b 14).toNat * 2 ^ 8 + (b 15).toNat ∧
      t.nameLen = 4#32 ∧ t.dataLen.toNat = s.wireLen.toNat - 16 - p

/-- R125: whatever its outcome, DES leaves WIRE_PTR and WIRE_LEN, with A = 0 DATA_PTR and every byte of
BUF outside the destination, with A = 1 and with an error all of BUF; and the registers no rule lets it
write. -/
def Obligations.DesFrame : Prop :=
  ∀ (a st : Bool) (s : State), ∃ t, exec (desForm a st) s = .next t ∧
    t.wirePtr = s.wirePtr ∧ t.wireLen = s.wireLen ∧ t.ovr = s.ovr ∧ t.ie = s.ie ∧ t.cur = s.cur ∧
    t.faults = s.faults ∧ (t.code ≠ 6#4 → t.hdrErr = s.hdrErr) ∧
    (a = false → t.dataPtr = s.dataPtr ∧
      ∀ x, x < s.dataPtr.toNat ∨ s.dataPtr.toNat + t.dataLen.toNat ≤ x →
        t.buf.cell x = s.buf.cell x) ∧
    (a = true ∨ t.code ≠ 0#4 → ∀ x, t.buf.cell x = s.buf.cell x)

/-- R127: what holds of the input when DES completes with OK. -/
def Obligations.AcceptedInputBounds : Prop :=
  ∀ (a st : Bool) (s : State), ∃ t, exec (desForm a st) s = .next t ∧
    (t.code = 0#4 → ∃ h p, s.params.hc.parse s.wireBytes = .ok h ∧
      padAccepted st h s.wireBytes p ∧
      s.wireLen.toNat % 4 = 0 ∧ 16 ≤ s.wireLen.toNat ∧ s.wireLen.toNat ≤ 262144 ∧
      p ≤ 255 ∧ p ≤ s.wireLen.toNat - 16 ∧
      t.dataLen.toNat = s.wireLen.toNat - 16 - p ∧ t.dataLen.toNat ≤ 262128 ∧
      (h.length.toNat + 1) * 4 = s.wireLen.toNat)

/-- R137: which code DES reports when several causes apply. -/
def Obligations.DesErrorPriority : Prop :=
  ∀ (a st : Bool) (s : State), ∃ t, exec (desForm a st) s = .next t ∧
    (¬ inBounds s.params s.wirePtr.toNat s.wireLen.toNat → t.code = 7#4) ∧
    (inBounds s.params s.wirePtr.toNat s.wireLen.toNat →
      match s.params.hc.parse s.wireBytes with
      | .error _ => t.code = 6#4
      | .ok h =>
        (s.wireLen.toNat < 16 → t.code = 3#4) ∧
        (16 ≤ s.wireLen.toNat → (h.length.toNat + 1) * 4 ≠ s.wireLen.toNat → t.code = 4#4) ∧
        (16 ≤ s.wireLen.toNat → (h.length.toNat + 1) * 4 = s.wireLen.toNat →
          (∀ p, ¬ padAccepted st h s.wireBytes p) → t.code = 5#4) ∧
        (∀ p, 16 ≤ s.wireLen.toNat → (h.length.toNat + 1) * 4 = s.wireLen.toNat →
          padAccepted st h s.wireBytes p →
          t.code = if a = false ∧ ¬ inBounds s.params s.dataPtr.toNat (s.wireLen.toNat - 16 - p)
            then 7#4 else 0#4))

/-- R128: an input shorter than 16 bytes, in bounds: HEADER_ERROR or PACKET_TOO_SHORT, as the Header
Codec decides; under HC_REF as the last point of R128 says. -/
def Obligations.ShortInputOutcome : Prop :=
  ∀ (a st : Bool) (s : State), inBounds s.params s.wirePtr.toNat s.wireLen.toNat →
    s.wireLen.toNat < 16 → ∃ t, exec (desForm a st) s = .next t ∧
      (match s.params.hc.parse s.wireBytes with
        | .error _ => t.code = 6#4
        | .ok _ => t.code = 3#4) ∧
      (4 ≤ s.wireLen.toNat →
        s.params.hc.parse s.wireBytes = s.params.hc.parse (s.wireBytes.take 4)) ∧
      (s.setting = .reference → s.wireLen.toNat < 4 → t.code = 6#4 ∧ t.hdrErr = 1#32) ∧
      (s.setting = .reference → 4 ≤ s.wireLen.toNat →
        (t.code = 3#4 ↔ (s.wireBytes.getD 0 0).toNat / 64 = 2))

/-- R111: a packet that SER wrote decodes to the fields it was made from, by every form of DES, from
any state that has the wire region and its two registers as SER left them. -/
def Obligations.SerThenDesGivesThePacketBack : Prop :=
  ∀ (a st : Bool) (s t u : State) (hb : Bytes4), s.SerInput hb → exec .ser s = .next t →
    u.setting = s.setting → u.wirePtr = t.wirePtr → u.wireLen = t.wireLen →
    (∀ x, t.wirePtr.toNat ≤ x → x < t.wirePtr.toNat + t.wireLen.toNat →
      u.buf.cell x = t.buf.cell x) →
    (a = false → inBounds u.params u.dataPtr.toNat s.dataLen.toNat) →
    ∃ v, exec (desForm a st) u = .next v ∧ v.code = 0#4 ∧
      v.subtype = s.subtype ∧ v.senderSsrc = s.senderSsrc ∧ v.name = s.name ∧
      v.mediaSsrc = s.mediaSsrc ∧ v.dataLen = s.dataLen ∧ v.nameLen = 4#32 ∧
      (a = false → v.dataPtr = u.dataPtr) ∧ (a = true → v.dataPtr.toNat = u.wirePtr.toNat + 16) ∧
      (∀ i < s.dataLen.toNat, v.buf.cell (v.dataPtr.toNat + i) =
        some (s.buf.read (s.draws + i) (s.dataPtr.toNat + i)))

/-! ## The host's accesses -/

/-- R132: a CMD write with BUSY = 0 latches the word, whatever it is; nothing else changes. -/
def Obligations.CmdWriteIssuesWhenIdle : Prop :=
  ∀ (s : State) (w : Word), s.hostNext (.write 32 0x000 w) →
    (s.busy = false → step s = .next { s.popTurn with
      cur := w, busy := true, done := false, response := some .written }) ∧
    (s.busy = true → step s = .next { s.popTurn with ovr := true, response := some .written })

/-- R33: the layout of STATUS as a host read returns it, at any time. -/
def Obligations.StatusReadLayout : Prop :=
  ∀ s : State, s.hostNext (.read 32 0x004) → ∃ v : Word,
    step s = .next { s.popTurn with response := some (.word v) } ∧
    v.getLsbD 0 = s.busy ∧ v.getLsbD 1 = s.done ∧ v.getLsbD 2 = s.ovr ∧
    v.extractLsb' 8 4 = s.code ∧ v.extractLsb' 3 5 = 0#5 ∧ v.extractLsb' 12 20 = 0#20

/-- R38: a STATUS write clears DONE and OVR where its bits 1 and 2 are 1, at any time, and does
nothing else. -/
def Obligations.StatusWriteClearsOnes : Prop :=
  ∀ (s : State) (v : Word), s.hostNext (.write 32 0x004 v) →
    step s = .next { s.popTurn with
      done := if v.getLsbD 1 then false else s.done
      ovr := if v.getLsbD 2 then false else s.ovr
      response := some .written }

/-- R39: CTRL has one bit, writable at any time. -/
def Obligations.CtrlWriteSetsInterruptEnable : Prop :=
  ∀ (s : State) (v : Word),
    (s.hostNext (.write 32 0x008 v) →
      step s = .next { s.popTurn with ie := v.getLsbD 0, response := some .written }) ∧
    (s.hostNext (.read 32 0x008) →
      step s = .next { s.popTurn with response := some (.word (if s.ie then 1#32 else 0#32)) })

/-- R21 to R40: a field register written with BUSY = 0 holds what was written, SUBTYPE its low five bits,
and the write changes that register alone; a read of any register returns its value and changes nothing,
with BUSY = 0, and of CMD, STATUS and CTRL at any time (R159); and what the value of each register other
than STATUS and CTRL is: 0 for CMD (R32), and for SUBTYPE its five bits zero-extended (R22). -/
def Obligations.FieldRegisterReadsBack : Prop :=
  ∀ (s : State) (r : Reg) (v : Word),
    (r.isField = true → s.busy = false →
      s.hostNext (.write 32 (BitVec.ofNat 25 r.offset) v) → ∃ t, step s = .next t ∧
        t.regValue r = (if r = .subtype then (v.setWidth 5).setWidth 32 else v) ∧
        (∀ q, q ≠ r → t.regValue q = s.regValue q) ∧ t.buf = s.buf ∧ t.faults = s.faults ∧
        t.cur = s.cur) ∧
    (s.busy = false ∨ r = .cmd ∨ r = .status ∨ r = .ctrl →
      s.hostNext (.read 32 (BitVec.ofNat 25 r.offset)) →
      step s = .next { s.popTurn with response := some (.word (s.regValue r)) }) ∧
    s.regValue .cmd = 0#32 ∧ s.regValue .hdrErr = s.hdrErr ∧
    s.regValue .subtype = s.subtype.setWidth 32 ∧ s.regValue .senderSsrc = s.senderSsrc ∧
    s.regValue .mediaSsrc = s.mediaSsrc ∧ s.regValue .name = s.name ∧
    s.regValue .nameLen = s.nameLen ∧ s.regValue .dataPtr = s.dataPtr ∧
    s.regValue .dataLen = s.dataLen ∧ s.regValue .wirePtr = s.wirePtr ∧
    s.regValue .wireLen = s.wireLen

/-- R50: a byte of BUF over the bus, with BUSY = 0. -/
def Obligations.BufByteAccess : Prop :=
  ∀ (s : State) (o : Offset) (a : Nat) (v : Word), s.busy = false → a < s.params.bufSize →
    o.toNat = 0x01000000 + a →
    (s.hostNext (.read 8 o) → ∃ t, step s = .next t ∧
      t.response = some (.byte (s.buf.read s.draws a)) ∧ t.buf = s.buf) ∧
    (s.hostNext (.write 8 o v) → ∃ t, step s = .next t ∧ t.response = some .written ∧
      t = { s.popTurn with buf := t.buf, response := some .written } ∧
      t.buf.cell a = some (v.extractLsb' 0 8) ∧ ∀ x, x ≠ a → t.buf.cell x = s.buf.cell x)

/-- R51: a word of BUF over the bus, with BUSY = 0, is big-endian. -/
def Obligations.BufWordAccessIsBigEndian : Prop :=
  ∀ (s : State) (o : Offset) (a : Nat) (v : Word), s.busy = false → a < s.params.bufSize →
    a % 4 = 0 → o.toNat = 0x01000000 + a →
    (s.hostNext (.read 32 o) → ∃ t v', step s = .next t ∧ t.response = some (.word v') ∧
      t.buf = s.buf ∧
      ∀ i < 4, v'.extractLsb' (24 - 8 * i) 8 = s.buf.read (s.draws + i) (a + i)) ∧
    (s.hostNext (.write 32 o v) → ∃ t, step s = .next t ∧
      t = { s.popTurn with buf := t.buf, response := some .written } ∧
      (∀ i < 4, t.buf.cell (a + i) = some (v.extractLsb' (24 - 8 * i) 8)) ∧
      ∀ x, x < a ∨ a + 4 ≤ x → t.buf.cell x = s.buf.cell x)

/-- R154: with BUSY = 0, a byte that nothing has written reads as a draw and stays unwritten, so that
the next read of it takes another draw. -/
def Obligations.UnwrittenByteReadsAsFreshDraw : Prop :=
  ∀ (s : State) (o : Offset) (a : Nat), s.busy = false → a < s.params.bufSize →
    o.toNat = 0x01000000 + a → s.buf.cell a = none → s.hostNext (.read 8 o) →
    ∃ t, step s = .next t ∧ t.response = some (.byte (Config.freeByte s.draws)) ∧
      t.buf.cell a = none ∧ s.draws < t.draws

/-- R52: reserved offsets read 0 and ignore writes, at any time, with no side effect; but an 8-bit
access to a reserved register offset is a bus error. -/
def Obligations.ReservedOffsetsReadZero : Prop :=
  ∀ (s : State) (w : Nat) (o : Offset) (v : Word),
    (((w = 32 ∧ o.toNat % 4 = 0 ∧ 0x034 ≤ o.toNat) ∨ (w = 8 ∧ 0x1000 ≤ o.toNat)) →
      o.toNat < 0x01000000 ∨ 0x01000000 + s.params.bufSize ≤ o.toNat →
      (s.hostNext (.read w o) → step s = .next { s.popTurn with
        response := some (if w = 8 then .byte 0#8 else .word 0#32) }) ∧
      (s.hostNext (.write w o v) → step s = .next { s.popTurn with response := some .written })) ∧
    (0x034 ≤ o.toNat → o.toNat < 0x1000 → s.hostNext (.read 8 o) ∨ s.hostNext (.write 8 o v) →
      step s = .next { s.popTurn with
        faults := { s.faults with hostBusError := true }, response := some .busError })

/-- R53: an illegal access, read or write, at any time: an error response and HostBusError recorded, no
effect on block state. -/
def Obligations.IllegalAccessIsBusError : Prop :=
  ∀ (s : State) (w : Nat) (o : Offset) (v : Word),
    (w ≠ 8 ∧ w ≠ 32) ∨ (w = 32 ∧ o.toNat % 4 ≠ 0) ∨ (w = 8 ∧ o.toNat < 0x1000) →
    s.hostNext (.read w o) ∨ s.hostNext (.write w o v) →
    step s = .next { s.popTurn with
      faults := { s.faults with hostBusError := true }, response := some .busError }

/-- R61: no host read changes a register, a byte of BUF or the latched word, at any time; a legal read
records no fault (R159), and an illegal one none but HostBusError. -/
def Obligations.HostReadsHaveNoSideEffect : Prop :=
  ∀ (s : State) (w : Nat) (o : Offset), s.hostNext (.read w o) → ∃ t, step s = .next t ∧
    t = { s.popTurn with response := t.response, draws := t.draws, faults := t.faults } ∧
    t.faults.hazardWrite = s.faults.hazardWrite ∧
    ((w = 32 ∧ o.toNat % 4 = 0) ∨ (w = 8 ∧ 0x1000 ≤ o.toNat) → t.faults = s.faults)

/-- R158: a write to a field register or to BUF with BUSY = 1 records HazardWrite, and marks the
command in flight. That the write itself does nothing more, and what the mark does at completion, is
log entry 4. -/
def Obligations.BusyInputWriteIsHazard : Prop :=
  ∀ (s : State) (w : Nat) (o : Offset) (v : Word), s.busy = true →
    (w = 32 ∧ o.toNat % 4 = 0 ∧ 0x010 ≤ o.toNat ∧ o.toNat ≤ 0x030) ∨
      ((w = 8 ∨ (w = 32 ∧ o.toNat % 4 = 0)) ∧ 0x01000000 ≤ o.toNat ∧
        o.toNat < 0x01000000 + s.params.bufSize) →
    s.hostNext (.write w o v) →
    step s = .next { s.popTurn with
      faults := { s.faults with hazardWrite := true }, tainted := true,
      response := some .written }

/-- R159: with BUSY = 1 a read of HDR_ERR, a field register or BUF returns a draw, and is no fault. -/
def Obligations.BusyResultReadIsDraw : Prop :=
  ∀ (s : State) (o : Offset), s.busy = true →
    (o.toNat % 4 = 0 ∧ 0x00C ≤ o.toNat ∧ o.toNat ≤ 0x030 ∨
      0x01000000 ≤ o.toNat ∧ o.toNat < 0x01000000 + s.params.bufSize) →
    (o.toNat % 4 = 0 → s.hostNext (.read 32 o) → step s = .next { s.popTurn with
      response := some (.word (Config.freeWord s.draws)), draws := s.draws + 1 }) ∧
    (0x1000 ≤ o.toNat → s.hostNext (.read 8 o) → step s = .next { s.popTurn with
      response := some (.byte (Config.freeByte s.draws)), draws := s.draws + 1 })

/-- R42: IRQ is DONE and IE; it is low after an issue, after DONE or IE is cleared, and after reset. -/
def Obligations.InterruptLine : Prop :=
  (∀ s : State, s.irq = (s.done && s.ie)) ∧
  (∀ s t : State, step s = .next t →
    s.nextTurn.reset = true ∨ (∃ w, s.hostNext (.write 32 0x000 w) ∧ s.busy = false) ∨
      (∃ v, s.hostNext (.write 32 0x004 v) ∧ v.getLsbD 1 = true) ∨
      (∃ v, s.hostNext (.write 32 0x008 v) ∧ v.getLsbD 0 = false) → t.irq = false)

/-! ## Reset -/

/-- R153, R154, R156: the state after power-on. -/
def Obligations.ResetState : Prop :=
  (∀ r : Reg, State.reset.regValue r = 0#32) ∧ State.reset.busy = false ∧ State.reset.irq = false ∧
  (∀ a, State.reset.buf.cell a = none) ∧ State.reset.faults = FaultSet.empty

/-- R157: what the commands give from the reset values: SIZE 16, SER INVALID_NAME, DES what the Header
Codec says of the empty input, under HC_REF HEADER_ERROR with HDR_ERR = 1 (the reference setting is log
entry 5). -/
def Obligations.CommandsFromResetValues : Prop :=
  (∃ t, exec .size State.reset = .next t ∧ t.code = 0#4 ∧ t.wireLen = 16#32) ∧
  (∃ t, exec .ser State.reset = .next t ∧ t.code = 2#4) ∧
  (∀ a st : Bool, ∃ t, exec (desForm a st) State.reset = .next t ∧
    match Config.chip.hc.parse [] with
    | .error e => t.code = 6#4 ∧ t.hdrErr = e.setWidth 32
    | .ok _ => t.code = 3#4) ∧
  (∀ a st : Bool, ∃ t, exec (desForm a st) { State.reset with setting := .reference } = .next t ∧
    t.code = 6#4 ∧ t.hdrErr = 1#32)

/-- R145, R152 to R155: a reset turn, whatever else comes with it and whatever is in flight: every
register 0, every byte of BUF unwritten, the command abandoned, the fault record kept. That the draw
counter does not go back is the model's choice (log entry 2). -/
def Obligations.ResetTurnClearsTheBlock : Prop :=
  ∀ s : State, s.nextTurn.reset = true → ∃ t, step s = .next t ∧
    (∀ r : Reg, t.regValue r = 0#32) ∧ t.busy = false ∧ t.done = false ∧ t.irq = false ∧
    (∀ a, t.buf.cell a = none) ∧ t.faults = s.faults ∧ s.draws ≤ t.draws

/-! ## Whole-machine rules -/

/-- R43: no step removes a recorded fault. -/
def Obligations.FaultsAreNeverCleared : Prop :=
  ∀ s t : State, step s = .next t →
    (s.faults.hostBusError = true → t.faults.hostBusError = true) ∧
    (s.faults.hazardWrite = true → t.faults.hazardWrite = true)

/-- R34: BUSY rises only at an issue, and falls only at a completion or a reset. -/
def Obligations.BusyChangesOnlyAtIssueCompletionReset : Prop :=
  ∀ s t : State, step s = .next t →
    (s.busy = false → t.busy = true → ∃ w, s.hostNext (.write 32 0x000 w)) ∧
    (s.busy = true → t.busy = false →
      s.nextTurn.reset = true ∨ (s.nextTurn = ⟨false, .engine⟩ ∧ t.done = true))

/-- R36: OVR rises only at a CMD write with BUSY = 1, and falls only at a STATUS write with bit 2 set
or a reset. -/
def Obligations.OverrunChangesOnlyByItsRule : Prop :=
  ∀ s t : State, step s = .next t →
    (s.ovr = false → t.ovr = true → s.busy = true ∧ ∃ w, s.hostNext (.write 32 0x000 w)) ∧
    (s.ovr = true → t.ovr = false →
      s.nextTurn.reset = true ∨ ∃ v, s.hostNext (.write 32 0x004 v) ∧ v.getLsbD 2 = true)

/-- R37: CODE changes only at a completion or a reset. -/
def Obligations.CodeChangesOnlyAtCompletionOrReset : Prop :=
  ∀ s t : State, step s = .next t → t.code ≠ s.code →
    s.nextTurn.reset = true ∨ (s.nextTurn = ⟨false, .engine⟩ ∧ s.busy = true)

/-- R35, R40, R135, R153: DONE rises only at a completion, and falls only at an issue, a STATUS write with
bit 1 set or a reset; HDR_ERR changes only at a completion or a reset. That a host write to HDR_ERR has
no effect is log entry 8 (DEDUCED). -/
def Obligations.DoneAndHdrErrChangeOnlyByTheirRules : Prop :=
  ∀ s t : State, step s = .next t →
    (s.done = false → t.done = true → s.nextTurn = ⟨false, .engine⟩ ∧ s.busy = true) ∧
    (s.done = true → t.done = false →
      s.nextTurn.reset = true ∨ (∃ w, s.hostNext (.write 32 0x000 w) ∧ s.busy = false) ∨
        ∃ v, s.hostNext (.write 32 0x004 v) ∧ v.getLsbD 1 = true) ∧
    (t.hdrErr ≠ s.hdrErr →
      s.nextTurn.reset = true ∨ (s.nextTurn = ⟨false, .engine⟩ ∧ s.busy = true)) ∧
    (∀ v, s.hostNext (.write 32 0x00C v) → t = { s.popTurn with response := some .written })

/-- The invariant holds after power-on, and in every state reset leaves from a state that has it. -/
def Obligations.ResetHasTheInvariant : Prop :=
  State.reset.Inv ∧ ∀ s : State, s.resetBlock.Inv

/-- Every step keeps the invariant: BUF canonical and inside its bounds, CODE one of the nine, HDR_ERR
within HDR_ERR_W bits, BUSY and DONE never both set, a hazard mark only on a command in flight. -/
def Obligations.EveryStepKeepsTheInvariant : Prop :=
  ∀ s t : State, s.Inv → step s = .next t → t.Inv
end

