-- ==== Sys2Proof/Laws/State.lean ====
section
/-! SUPPORT. One lemma per field for each update of the state, true by rfl, so that no later proof
unfolds a record update. -/

namespace Sys2Proof.Machine

/-- The parameters depend on the setting alone. -/
theorem State.params_congr {s t : State} (h : s.setting = t.setting) : s.params = t.params := by
  unfold State.params; rw [h]


/-! ### The end of a completion -/

@[simp] theorem State.finish_subtype (s : State) (c : StatusCode) (n : Nat) :
    (s.finish c n).subtype = s.subtype := rfl
@[simp] theorem State.finish_senderSsrc (s : State) (c : StatusCode) (n : Nat) :
    (s.finish c n).senderSsrc = s.senderSsrc := rfl
@[simp] theorem State.finish_mediaSsrc (s : State) (c : StatusCode) (n : Nat) :
    (s.finish c n).mediaSsrc = s.mediaSsrc := rfl
@[simp] theorem State.finish_name (s : State) (c : StatusCode) (n : Nat) :
    (s.finish c n).name = s.name := rfl
@[simp] theorem State.finish_nameLen (s : State) (c : StatusCode) (n : Nat) :
    (s.finish c n).nameLen = s.nameLen := rfl
@[simp] theorem State.finish_dataPtr (s : State) (c : StatusCode) (n : Nat) :
    (s.finish c n).dataPtr = s.dataPtr := rfl
@[simp] theorem State.finish_dataLen (s : State) (c : StatusCode) (n : Nat) :
    (s.finish c n).dataLen = s.dataLen := rfl
@[simp] theorem State.finish_wirePtr (s : State) (c : StatusCode) (n : Nat) :
    (s.finish c n).wirePtr = s.wirePtr := rfl
@[simp] theorem State.finish_wireLen (s : State) (c : StatusCode) (n : Nat) :
    (s.finish c n).wireLen = s.wireLen := rfl
@[simp] theorem State.finish_busy (s : State) (c : StatusCode) (n : Nat) :
    (s.finish c n).busy = false := rfl
@[simp] theorem State.finish_done (s : State) (c : StatusCode) (n : Nat) :
    (s.finish c n).done = true := rfl
@[simp] theorem State.finish_ovr (s : State) (c : StatusCode) (n : Nat) :
    (s.finish c n).ovr = s.ovr := rfl
@[simp] theorem State.finish_code (s : State) (c : StatusCode) (n : Nat) :
    (s.finish c n).code = c.bits := rfl
@[simp] theorem State.finish_ie (s : State) (c : StatusCode) (n : Nat) :
    (s.finish c n).ie = s.ie := rfl
@[simp] theorem State.finish_hdrErr (s : State) (c : StatusCode) (n : Nat) :
    (s.finish c n).hdrErr = s.hdrErr := rfl
@[simp] theorem State.finish_buf (s : State) (c : StatusCode) (n : Nat) :
    (s.finish c n).buf = s.buf := rfl
@[simp] theorem State.finish_cur (s : State) (c : StatusCode) (n : Nat) :
    (s.finish c n).cur = s.cur := rfl
@[simp] theorem State.finish_faults (s : State) (c : StatusCode) (n : Nat) :
    (s.finish c n).faults = s.faults := rfl
@[simp] theorem State.finish_draws (s : State) (c : StatusCode) (n : Nat) :
    (s.finish c n).draws = s.draws + n := rfl
@[simp] theorem State.finish_tainted (s : State) (c : StatusCode) (n : Nat) :
    (s.finish c n).tainted = false := rfl
@[simp] theorem State.finish_schedule (s : State) (c : StatusCode) (n : Nat) :
    (s.finish c n).schedule = s.schedule := rfl
@[simp] theorem State.finish_response (s : State) (c : StatusCode) (n : Nat) :
    (s.finish c n).response = s.response := rfl
@[simp] theorem State.finish_setting (s : State) (c : StatusCode) (n : Nat) :
    (s.finish c n).setting = s.setting := rfl
@[simp] theorem State.finish_params (s : State) (c : StatusCode) (n : Nat) :
    (s.finish c n).params = s.params := rfl

/-! ### The bus answers -/

@[simp] theorem State.respond_subtype (s : State) (r : Response) :
    (s.respond r).subtype = s.subtype := rfl
@[simp] theorem State.respond_senderSsrc (s : State) (r : Response) :
    (s.respond r).senderSsrc = s.senderSsrc := rfl
@[simp] theorem State.respond_mediaSsrc (s : State) (r : Response) :
    (s.respond r).mediaSsrc = s.mediaSsrc := rfl
@[simp] theorem State.respond_name (s : State) (r : Response) : (s.respond r).name = s.name := rfl
@[simp] theorem State.respond_nameLen (s : State) (r : Response) :
    (s.respond r).nameLen = s.nameLen := rfl
@[simp] theorem State.respond_dataPtr (s : State) (r : Response) :
    (s.respond r).dataPtr = s.dataPtr := rfl
@[simp] theorem State.respond_dataLen (s : State) (r : Response) :
    (s.respond r).dataLen = s.dataLen := rfl
@[simp] theorem State.respond_wirePtr (s : State) (r : Response) :
    (s.respond r).wirePtr = s.wirePtr := rfl
@[simp] theorem State.respond_wireLen (s : State) (r : Response) :
    (s.respond r).wireLen = s.wireLen := rfl
@[simp] theorem State.respond_busy (s : State) (r : Response) : (s.respond r).busy = s.busy := rfl
@[simp] theorem State.respond_done (s : State) (r : Response) : (s.respond r).done = s.done := rfl
@[simp] theorem State.respond_ovr (s : State) (r : Response) : (s.respond r).ovr = s.ovr := rfl
@[simp] theorem State.respond_code (s : State) (r : Response) : (s.respond r).code = s.code := rfl
@[simp] theorem State.respond_ie (s : State) (r : Response) : (s.respond r).ie = s.ie := rfl
@[simp] theorem State.respond_hdrErr (s : State) (r : Response) :
    (s.respond r).hdrErr = s.hdrErr := rfl
@[simp] theorem State.respond_buf (s : State) (r : Response) : (s.respond r).buf = s.buf := rfl
@[simp] theorem State.respond_cur (s : State) (r : Response) : (s.respond r).cur = s.cur := rfl
@[simp] theorem State.respond_faults (s : State) (r : Response) :
    (s.respond r).faults = s.faults := rfl
@[simp] theorem State.respond_draws (s : State) (r : Response) :
    (s.respond r).draws = s.draws := rfl
@[simp] theorem State.respond_tainted (s : State) (r : Response) :
    (s.respond r).tainted = s.tainted := rfl
@[simp] theorem State.respond_schedule (s : State) (r : Response) :
    (s.respond r).schedule = s.schedule := rfl
@[simp] theorem State.respond_response (s : State) (r : Response) :
    (s.respond r).response = some r := rfl
@[simp] theorem State.respond_setting (s : State) (r : Response) :
    (s.respond r).setting = s.setting := rfl
@[simp] theorem State.respond_params (s : State) (r : Response) :
    (s.respond r).params = s.params := rfl

/-! ### An illegal access -/

@[simp] theorem State.busError_subtype (s : State) : (s.busError).subtype = s.subtype := rfl
@[simp] theorem State.busError_senderSsrc (s : State) :
    (s.busError).senderSsrc = s.senderSsrc := rfl
@[simp] theorem State.busError_mediaSsrc (s : State) : (s.busError).mediaSsrc = s.mediaSsrc := rfl
@[simp] theorem State.busError_name (s : State) : (s.busError).name = s.name := rfl
@[simp] theorem State.busError_nameLen (s : State) : (s.busError).nameLen = s.nameLen := rfl
@[simp] theorem State.busError_dataPtr (s : State) : (s.busError).dataPtr = s.dataPtr := rfl
@[simp] theorem State.busError_dataLen (s : State) : (s.busError).dataLen = s.dataLen := rfl
@[simp] theorem State.busError_wirePtr (s : State) : (s.busError).wirePtr = s.wirePtr := rfl
@[simp] theorem State.busError_wireLen (s : State) : (s.busError).wireLen = s.wireLen := rfl
@[simp] theorem State.busError_busy (s : State) : (s.busError).busy = s.busy := rfl
@[simp] theorem State.busError_done (s : State) : (s.busError).done = s.done := rfl
@[simp] theorem State.busError_ovr (s : State) : (s.busError).ovr = s.ovr := rfl
@[simp] theorem State.busError_code (s : State) : (s.busError).code = s.code := rfl
@[simp] theorem State.busError_ie (s : State) : (s.busError).ie = s.ie := rfl
@[simp] theorem State.busError_hdrErr (s : State) : (s.busError).hdrErr = s.hdrErr := rfl
@[simp] theorem State.busError_buf (s : State) : (s.busError).buf = s.buf := rfl
@[simp] theorem State.busError_cur (s : State) : (s.busError).cur = s.cur := rfl
@[simp] theorem State.busError_faults (s : State) :
    (s.busError).faults = ⟨true, s.faults.hazardWrite⟩ := rfl
@[simp] theorem State.busError_draws (s : State) : (s.busError).draws = s.draws := rfl
@[simp] theorem State.busError_tainted (s : State) : (s.busError).tainted = s.tainted := rfl
@[simp] theorem State.busError_schedule (s : State) : (s.busError).schedule = s.schedule := rfl
@[simp] theorem State.busError_response (s : State) : (s.busError).response = some .busError := rfl
@[simp] theorem State.busError_setting (s : State) : (s.busError).setting = s.setting := rfl
@[simp] theorem State.busError_params (s : State) : (s.busError).params = s.params := rfl

/-! ### A hazard write -/

@[simp] theorem State.hazard_subtype (s : State) : (s.hazard).subtype = s.subtype := rfl
@[simp] theorem State.hazard_senderSsrc (s : State) : (s.hazard).senderSsrc = s.senderSsrc := rfl
@[simp] theorem State.hazard_mediaSsrc (s : State) : (s.hazard).mediaSsrc = s.mediaSsrc := rfl
@[simp] theorem State.hazard_name (s : State) : (s.hazard).name = s.name := rfl
@[simp] theorem State.hazard_nameLen (s : State) : (s.hazard).nameLen = s.nameLen := rfl
@[simp] theorem State.hazard_dataPtr (s : State) : (s.hazard).dataPtr = s.dataPtr := rfl
@[simp] theorem State.hazard_dataLen (s : State) : (s.hazard).dataLen = s.dataLen := rfl
@[simp] theorem State.hazard_wirePtr (s : State) : (s.hazard).wirePtr = s.wirePtr := rfl
@[simp] theorem State.hazard_wireLen (s : State) : (s.hazard).wireLen = s.wireLen := rfl
@[simp] theorem State.hazard_busy (s : State) : (s.hazard).busy = s.busy := rfl
@[simp] theorem State.hazard_done (s : State) : (s.hazard).done = s.done := rfl
@[simp] theorem State.hazard_ovr (s : State) : (s.hazard).ovr = s.ovr := rfl
@[simp] theorem State.hazard_code (s : State) : (s.hazard).code = s.code := rfl
@[simp] theorem State.hazard_ie (s : State) : (s.hazard).ie = s.ie := rfl
@[simp] theorem State.hazard_hdrErr (s : State) : (s.hazard).hdrErr = s.hdrErr := rfl
@[simp] theorem State.hazard_buf (s : State) : (s.hazard).buf = s.buf := rfl
@[simp] theorem State.hazard_cur (s : State) : (s.hazard).cur = s.cur := rfl
@[simp] theorem State.hazard_faults (s : State) :
    (s.hazard).faults = ⟨s.faults.hostBusError, true⟩ := rfl
@[simp] theorem State.hazard_draws (s : State) : (s.hazard).draws = s.draws := rfl
@[simp] theorem State.hazard_tainted (s : State) : (s.hazard).tainted = true := rfl
@[simp] theorem State.hazard_schedule (s : State) : (s.hazard).schedule = s.schedule := rfl
@[simp] theorem State.hazard_response (s : State) : (s.hazard).response = some .written := rfl
@[simp] theorem State.hazard_setting (s : State) : (s.hazard).setting = s.setting := rfl
@[simp] theorem State.hazard_params (s : State) : (s.hazard).params = s.params := rfl

/-! ### A read that returns a draw -/

@[simp] theorem State.respondDraw_subtype (s : State) (w : Nat) :
    (s.respondDraw w).subtype = s.subtype := rfl
@[simp] theorem State.respondDraw_senderSsrc (s : State) (w : Nat) :
    (s.respondDraw w).senderSsrc = s.senderSsrc := rfl
@[simp] theorem State.respondDraw_mediaSsrc (s : State) (w : Nat) :
    (s.respondDraw w).mediaSsrc = s.mediaSsrc := rfl
@[simp] theorem State.respondDraw_name (s : State) (w : Nat) :
    (s.respondDraw w).name = s.name := rfl
@[simp] theorem State.respondDraw_nameLen (s : State) (w : Nat) :
    (s.respondDraw w).nameLen = s.nameLen := rfl
@[simp] theorem State.respondDraw_dataPtr (s : State) (w : Nat) :
    (s.respondDraw w).dataPtr = s.dataPtr := rfl
@[simp] theorem State.respondDraw_dataLen (s : State) (w : Nat) :
    (s.respondDraw w).dataLen = s.dataLen := rfl
@[simp] theorem State.respondDraw_wirePtr (s : State) (w : Nat) :
    (s.respondDraw w).wirePtr = s.wirePtr := rfl
@[simp] theorem State.respondDraw_wireLen (s : State) (w : Nat) :
    (s.respondDraw w).wireLen = s.wireLen := rfl
@[simp] theorem State.respondDraw_busy (s : State) (w : Nat) :
    (s.respondDraw w).busy = s.busy := rfl
@[simp] theorem State.respondDraw_done (s : State) (w : Nat) :
    (s.respondDraw w).done = s.done := rfl
@[simp] theorem State.respondDraw_ovr (s : State) (w : Nat) : (s.respondDraw w).ovr = s.ovr := rfl
@[simp] theorem State.respondDraw_code (s : State) (w : Nat) :
    (s.respondDraw w).code = s.code := rfl
@[simp] theorem State.respondDraw_ie (s : State) (w : Nat) : (s.respondDraw w).ie = s.ie := rfl
@[simp] theorem State.respondDraw_hdrErr (s : State) (w : Nat) :
    (s.respondDraw w).hdrErr = s.hdrErr := rfl
@[simp] theorem State.respondDraw_buf (s : State) (w : Nat) : (s.respondDraw w).buf = s.buf := rfl
@[simp] theorem State.respondDraw_cur (s : State) (w : Nat) : (s.respondDraw w).cur = s.cur := rfl
@[simp] theorem State.respondDraw_faults (s : State) (w : Nat) :
    (s.respondDraw w).faults = s.faults := rfl
@[simp] theorem State.respondDraw_draws (s : State) (w : Nat) :
    (s.respondDraw w).draws = s.draws + 1 := rfl
@[simp] theorem State.respondDraw_tainted (s : State) (w : Nat) :
    (s.respondDraw w).tainted = s.tainted := rfl
@[simp] theorem State.respondDraw_schedule (s : State) (w : Nat) :
    (s.respondDraw w).schedule = s.schedule := rfl
@[simp] theorem State.respondDraw_setting (s : State) (w : Nat) :
    (s.respondDraw w).setting = s.setting := rfl
@[simp] theorem State.respondDraw_params (s : State) (w : Nat) :
    (s.respondDraw w).params = s.params := rfl

/-! ### The issue step -/

@[simp] theorem State.issue_subtype (s : State) (w : Word) : (s.issue w).subtype = s.subtype := rfl
@[simp] theorem State.issue_senderSsrc (s : State) (w : Word) :
    (s.issue w).senderSsrc = s.senderSsrc := rfl
@[simp] theorem State.issue_mediaSsrc (s : State) (w : Word) :
    (s.issue w).mediaSsrc = s.mediaSsrc := rfl
@[simp] theorem State.issue_name (s : State) (w : Word) : (s.issue w).name = s.name := rfl
@[simp] theorem State.issue_nameLen (s : State) (w : Word) : (s.issue w).nameLen = s.nameLen := rfl
@[simp] theorem State.issue_dataPtr (s : State) (w : Word) : (s.issue w).dataPtr = s.dataPtr := rfl
@[simp] theorem State.issue_dataLen (s : State) (w : Word) : (s.issue w).dataLen = s.dataLen := rfl
@[simp] theorem State.issue_wirePtr (s : State) (w : Word) : (s.issue w).wirePtr = s.wirePtr := rfl
@[simp] theorem State.issue_wireLen (s : State) (w : Word) : (s.issue w).wireLen = s.wireLen := rfl
@[simp] theorem State.issue_busy (s : State) (w : Word) : (s.issue w).busy = true := rfl
@[simp] theorem State.issue_done (s : State) (w : Word) : (s.issue w).done = false := rfl
@[simp] theorem State.issue_ovr (s : State) (w : Word) : (s.issue w).ovr = s.ovr := rfl
@[simp] theorem State.issue_code (s : State) (w : Word) : (s.issue w).code = s.code := rfl
@[simp] theorem State.issue_ie (s : State) (w : Word) : (s.issue w).ie = s.ie := rfl
@[simp] theorem State.issue_hdrErr (s : State) (w : Word) : (s.issue w).hdrErr = s.hdrErr := rfl
@[simp] theorem State.issue_buf (s : State) (w : Word) : (s.issue w).buf = s.buf := rfl
@[simp] theorem State.issue_cur (s : State) (w : Word) : (s.issue w).cur = w := rfl
@[simp] theorem State.issue_faults (s : State) (w : Word) : (s.issue w).faults = s.faults := rfl
@[simp] theorem State.issue_draws (s : State) (w : Word) : (s.issue w).draws = s.draws := rfl
@[simp] theorem State.issue_tainted (s : State) (w : Word) : (s.issue w).tainted = s.tainted := rfl
@[simp] theorem State.issue_schedule (s : State) (w : Word) :
    (s.issue w).schedule = s.schedule := rfl
@[simp] theorem State.issue_response (s : State) (w : Word) :
    (s.issue w).response = s.response := rfl
@[simp] theorem State.issue_setting (s : State) (w : Word) : (s.issue w).setting = s.setting := rfl
@[simp] theorem State.issue_params (s : State) (w : Word) : (s.issue w).params = s.params := rfl

/-! ### A write to STATUS -/

@[simp] theorem State.ackStatus_subtype (s : State) (v : Word) :
    (s.ackStatus v).subtype = s.subtype := rfl
@[simp] theorem State.ackStatus_senderSsrc (s : State) (v : Word) :
    (s.ackStatus v).senderSsrc = s.senderSsrc := rfl
@[simp] theorem State.ackStatus_mediaSsrc (s : State) (v : Word) :
    (s.ackStatus v).mediaSsrc = s.mediaSsrc := rfl
@[simp] theorem State.ackStatus_name (s : State) (v : Word) : (s.ackStatus v).name = s.name := rfl
@[simp] theorem State.ackStatus_nameLen (s : State) (v : Word) :
    (s.ackStatus v).nameLen = s.nameLen := rfl
@[simp] theorem State.ackStatus_dataPtr (s : State) (v : Word) :
    (s.ackStatus v).dataPtr = s.dataPtr := rfl
@[simp] theorem State.ackStatus_dataLen (s : State) (v : Word) :
    (s.ackStatus v).dataLen = s.dataLen := rfl
@[simp] theorem State.ackStatus_wirePtr (s : State) (v : Word) :
    (s.ackStatus v).wirePtr = s.wirePtr := rfl
@[simp] theorem State.ackStatus_wireLen (s : State) (v : Word) :
    (s.ackStatus v).wireLen = s.wireLen := rfl
@[simp] theorem State.ackStatus_busy (s : State) (v : Word) : (s.ackStatus v).busy = s.busy := rfl
@[simp] theorem State.ackStatus_done (s : State) (v : Word) :
    (s.ackStatus v).done = (s.done && !v.getLsbD 1) := rfl
@[simp] theorem State.ackStatus_ovr (s : State) (v : Word) :
    (s.ackStatus v).ovr = (s.ovr && !v.getLsbD 2) := rfl
@[simp] theorem State.ackStatus_code (s : State) (v : Word) : (s.ackStatus v).code = s.code := rfl
@[simp] theorem State.ackStatus_ie (s : State) (v : Word) : (s.ackStatus v).ie = s.ie := rfl
@[simp] theorem State.ackStatus_hdrErr (s : State) (v : Word) :
    (s.ackStatus v).hdrErr = s.hdrErr := rfl
@[simp] theorem State.ackStatus_buf (s : State) (v : Word) : (s.ackStatus v).buf = s.buf := rfl
@[simp] theorem State.ackStatus_cur (s : State) (v : Word) : (s.ackStatus v).cur = s.cur := rfl
@[simp] theorem State.ackStatus_faults (s : State) (v : Word) :
    (s.ackStatus v).faults = s.faults := rfl
@[simp] theorem State.ackStatus_draws (s : State) (v : Word) :
    (s.ackStatus v).draws = s.draws := rfl
@[simp] theorem State.ackStatus_tainted (s : State) (v : Word) :
    (s.ackStatus v).tainted = s.tainted := rfl
@[simp] theorem State.ackStatus_schedule (s : State) (v : Word) :
    (s.ackStatus v).schedule = s.schedule := rfl
@[simp] theorem State.ackStatus_response (s : State) (v : Word) :
    (s.ackStatus v).response = s.response := rfl
@[simp] theorem State.ackStatus_setting (s : State) (v : Word) :
    (s.ackStatus v).setting = s.setting := rfl
@[simp] theorem State.ackStatus_params (s : State) (v : Word) :
    (s.ackStatus v).params = s.params := rfl

/-! ### Reset -/

@[simp] theorem State.resetBlock_subtype (s : State) : (s.resetBlock).subtype = 0 := rfl
@[simp] theorem State.resetBlock_senderSsrc (s : State) : (s.resetBlock).senderSsrc = 0 := rfl
@[simp] theorem State.resetBlock_mediaSsrc (s : State) : (s.resetBlock).mediaSsrc = 0 := rfl
@[simp] theorem State.resetBlock_name (s : State) : (s.resetBlock).name = 0 := rfl
@[simp] theorem State.resetBlock_nameLen (s : State) : (s.resetBlock).nameLen = 0 := rfl
@[simp] theorem State.resetBlock_dataPtr (s : State) : (s.resetBlock).dataPtr = 0 := rfl
@[simp] theorem State.resetBlock_dataLen (s : State) : (s.resetBlock).dataLen = 0 := rfl
@[simp] theorem State.resetBlock_wirePtr (s : State) : (s.resetBlock).wirePtr = 0 := rfl
@[simp] theorem State.resetBlock_wireLen (s : State) : (s.resetBlock).wireLen = 0 := rfl
@[simp] theorem State.resetBlock_busy (s : State) : (s.resetBlock).busy = false := rfl
@[simp] theorem State.resetBlock_done (s : State) : (s.resetBlock).done = false := rfl
@[simp] theorem State.resetBlock_ovr (s : State) : (s.resetBlock).ovr = false := rfl
@[simp] theorem State.resetBlock_code (s : State) : (s.resetBlock).code = 0 := rfl
@[simp] theorem State.resetBlock_ie (s : State) : (s.resetBlock).ie = false := rfl
@[simp] theorem State.resetBlock_hdrErr (s : State) : (s.resetBlock).hdrErr = 0 := rfl
@[simp] theorem State.resetBlock_buf (s : State) : (s.resetBlock).buf = [] := rfl
@[simp] theorem State.resetBlock_cur (s : State) : (s.resetBlock).cur = 0 := rfl
@[simp] theorem State.resetBlock_faults (s : State) : (s.resetBlock).faults = s.faults := rfl
@[simp] theorem State.resetBlock_draws (s : State) : (s.resetBlock).draws = s.draws := rfl
@[simp] theorem State.resetBlock_tainted (s : State) : (s.resetBlock).tainted = false := rfl
@[simp] theorem State.resetBlock_schedule (s : State) : (s.resetBlock).schedule = s.schedule := rfl
@[simp] theorem State.resetBlock_response (s : State) : (s.resetBlock).response = none := rfl
@[simp] theorem State.resetBlock_setting (s : State) : (s.resetBlock).setting = s.setting := rfl
@[simp] theorem State.resetBlock_params (s : State) : (s.resetBlock).params = s.params := rfl

/-! ### A turn taken off the schedule -/

@[simp] theorem State.popTurn_subtype (s : State) : (s.popTurn).subtype = s.subtype := rfl
@[simp] theorem State.popTurn_senderSsrc (s : State) : (s.popTurn).senderSsrc = s.senderSsrc := rfl
@[simp] theorem State.popTurn_mediaSsrc (s : State) : (s.popTurn).mediaSsrc = s.mediaSsrc := rfl
@[simp] theorem State.popTurn_name (s : State) : (s.popTurn).name = s.name := rfl
@[simp] theorem State.popTurn_nameLen (s : State) : (s.popTurn).nameLen = s.nameLen := rfl
@[simp] theorem State.popTurn_dataPtr (s : State) : (s.popTurn).dataPtr = s.dataPtr := rfl
@[simp] theorem State.popTurn_dataLen (s : State) : (s.popTurn).dataLen = s.dataLen := rfl
@[simp] theorem State.popTurn_wirePtr (s : State) : (s.popTurn).wirePtr = s.wirePtr := rfl
@[simp] theorem State.popTurn_wireLen (s : State) : (s.popTurn).wireLen = s.wireLen := rfl
@[simp] theorem State.popTurn_busy (s : State) : (s.popTurn).busy = s.busy := rfl
@[simp] theorem State.popTurn_done (s : State) : (s.popTurn).done = s.done := rfl
@[simp] theorem State.popTurn_ovr (s : State) : (s.popTurn).ovr = s.ovr := rfl
@[simp] theorem State.popTurn_code (s : State) : (s.popTurn).code = s.code := rfl
@[simp] theorem State.popTurn_ie (s : State) : (s.popTurn).ie = s.ie := rfl
@[simp] theorem State.popTurn_hdrErr (s : State) : (s.popTurn).hdrErr = s.hdrErr := rfl
@[simp] theorem State.popTurn_buf (s : State) : (s.popTurn).buf = s.buf := rfl
@[simp] theorem State.popTurn_cur (s : State) : (s.popTurn).cur = s.cur := rfl
@[simp] theorem State.popTurn_faults (s : State) : (s.popTurn).faults = s.faults := rfl
@[simp] theorem State.popTurn_draws (s : State) : (s.popTurn).draws = s.draws := rfl
@[simp] theorem State.popTurn_tainted (s : State) : (s.popTurn).tainted = s.tainted := rfl
@[simp] theorem State.popTurn_schedule (s : State) : (s.popTurn).schedule = s.schedule.tail := rfl
@[simp] theorem State.popTurn_response (s : State) : (s.popTurn).response = s.response := rfl
@[simp] theorem State.popTurn_setting (s : State) : (s.popTurn).setting = s.setting := rfl
@[simp] theorem State.popTurn_params (s : State) : (s.popTurn).params = s.params := rfl

/-! ### The fields of a decoded packet -/

@[simp] theorem desFields_subtype (s : State) (h : Header) (b : List Byte) (n : Nat) :
    (desFields s h b n).subtype = h.count := rfl
@[simp] theorem desFields_senderSsrc (s : State) (h : Header) (b : List Byte) (n : Nat) :
    (desFields s h b n).senderSsrc = wordAt b 4 := rfl
@[simp] theorem desFields_mediaSsrc (s : State) (h : Header) (b : List Byte) (n : Nat) :
    (desFields s h b n).mediaSsrc = wordAt b 12 := rfl
@[simp] theorem desFields_name (s : State) (h : Header) (b : List Byte) (n : Nat) :
    (desFields s h b n).name = wordAt b 8 := rfl
@[simp] theorem desFields_nameLen (s : State) (h : Header) (b : List Byte) (n : Nat) :
    (desFields s h b n).nameLen = 4#32 := rfl
@[simp] theorem desFields_dataPtr (s : State) (h : Header) (b : List Byte) (n : Nat) :
    (desFields s h b n).dataPtr = s.dataPtr := rfl
@[simp] theorem desFields_dataLen (s : State) (h : Header) (b : List Byte) (n : Nat) :
    (desFields s h b n).dataLen = BitVec.ofNat 32 n := rfl
@[simp] theorem desFields_wirePtr (s : State) (h : Header) (b : List Byte) (n : Nat) :
    (desFields s h b n).wirePtr = s.wirePtr := rfl
@[simp] theorem desFields_wireLen (s : State) (h : Header) (b : List Byte) (n : Nat) :
    (desFields s h b n).wireLen = s.wireLen := rfl
@[simp] theorem desFields_busy (s : State) (h : Header) (b : List Byte) (n : Nat) :
    (desFields s h b n).busy = s.busy := rfl
@[simp] theorem desFields_done (s : State) (h : Header) (b : List Byte) (n : Nat) :
    (desFields s h b n).done = s.done := rfl
@[simp] theorem desFields_ovr (s : State) (h : Header) (b : List Byte) (n : Nat) :
    (desFields s h b n).ovr = s.ovr := rfl
@[simp] theorem desFields_code (s : State) (h : Header) (b : List Byte) (n : Nat) :
    (desFields s h b n).code = s.code := rfl
@[simp] theorem desFields_ie (s : State) (h : Header) (b : List Byte) (n : Nat) :
    (desFields s h b n).ie = s.ie := rfl
@[simp] theorem desFields_hdrErr (s : State) (h : Header) (b : List Byte) (n : Nat) :
    (desFields s h b n).hdrErr = s.hdrErr := rfl
@[simp] theorem desFields_buf (s : State) (h : Header) (b : List Byte) (n : Nat) :
    (desFields s h b n).buf = s.buf := rfl
@[simp] theorem desFields_cur (s : State) (h : Header) (b : List Byte) (n : Nat) :
    (desFields s h b n).cur = s.cur := rfl
@[simp] theorem desFields_faults (s : State) (h : Header) (b : List Byte) (n : Nat) :
    (desFields s h b n).faults = s.faults := rfl
@[simp] theorem desFields_draws (s : State) (h : Header) (b : List Byte) (n : Nat) :
    (desFields s h b n).draws = s.draws := rfl
@[simp] theorem desFields_tainted (s : State) (h : Header) (b : List Byte) (n : Nat) :
    (desFields s h b n).tainted = s.tainted := rfl
@[simp] theorem desFields_schedule (s : State) (h : Header) (b : List Byte) (n : Nat) :
    (desFields s h b n).schedule = s.schedule := rfl
@[simp] theorem desFields_response (s : State) (h : Header) (b : List Byte) (n : Nat) :
    (desFields s h b n).response = s.response := rfl
@[simp] theorem desFields_setting (s : State) (h : Header) (b : List Byte) (n : Nat) :
    (desFields s h b n).setting = s.setting := rfl
@[simp] theorem desFields_params (s : State) (h : Header) (b : List Byte) (n : Nat) :
    (desFields s h b n).params = s.params := rfl

/-! ### The completion of a command that a hazard write hit -/

@[simp] theorem State.completeTainted_busy (s : State) : s.completeTainted.busy = false := rfl
@[simp] theorem State.completeTainted_done (s : State) : s.completeTainted.done = true := rfl
@[simp] theorem State.completeTainted_ovr (s : State) : s.completeTainted.ovr = s.ovr := rfl
@[simp] theorem State.completeTainted_ie (s : State) : s.completeTainted.ie = s.ie := rfl
@[simp] theorem State.completeTainted_buf (s : State) : s.completeTainted.buf = [] := rfl
@[simp] theorem State.completeTainted_cur (s : State) : s.completeTainted.cur = s.cur := rfl
@[simp] theorem State.completeTainted_faults (s : State) : s.completeTainted.faults = s.faults := rfl
@[simp] theorem State.completeTainted_draws (s : State) : s.completeTainted.draws = s.draws + 11 := rfl
@[simp] theorem State.completeTainted_tainted (s : State) : s.completeTainted.tainted = false := rfl
@[simp] theorem State.completeTainted_schedule (s : State) : s.completeTainted.schedule = s.schedule := rfl
@[simp] theorem State.completeTainted_response (s : State) : s.completeTainted.response = s.response := rfl
@[simp] theorem State.completeTainted_setting (s : State) : s.completeTainted.setting = s.setting := rfl
@[simp] theorem State.completeTainted_params (s : State) : s.completeTainted.params = s.params := rfl

end Sys2Proof.Machine
end

