-- ==== Sys2Proof/Laws/Memory.lean ====
section
/-! SUPPORT. The laws of BUF: a byte read after a store, and that every operation keeps the canonical
form and the bounds. -/

namespace Sys2Proof.Machine

@[simp] theorem Memory.cell_nil (a : Nat) : Memory.cell [] a = none := rfl

theorem Memory.cell_cons (k : Nat) (b : Byte) (m : Memory) (a : Nat) :
    Memory.cell ((k, b) :: m) a = if k = a then some b else Memory.cell m a := rfl

/-- Only addresses in the list are written. -/
theorem Memory.cell_eq_none (m : Memory) (a : Nat) (h : ∀ x ∈ m, x.1 ≠ a) : m.cell a = none := by
  induction m with
  | nil => rfl
  | cons x m ih =>
    rw [Memory.cell_cons, if_neg (h x (by simp))]
    exact ih fun y hy => h y (by simp [hy])

/-- Reading one cell after writing one cell. -/
theorem Memory.cell_setCell (m : Memory) (a : Nat) (b : Byte) (x : Nat) :
    (m.setCell a b).cell x = if x = a then some b else m.cell x := by
  induction m with
  | nil => simp [Memory.setCell, Memory.cell_cons, eq_comm]
  | cons y m ih =>
    obtain ⟨k, c⟩ := y
    unfold Memory.setCell
    split
    · simp [Memory.cell_cons, eq_comm]
    · split
      · rename_i h1 h2
        subst h2
        by_cases hx : x = a
        · simp [Memory.cell_cons, hx]
        · simp [Memory.cell_cons, hx, Ne.symm hx]
      · rename_i h1 h2
        rw [Memory.cell_cons, Memory.cell_cons, ih]
        by_cases hx : x = a
        · simp [hx, Ne.symm h2]
        · simp [hx]

/-- The addresses after writing one cell. -/
theorem Memory.mem_setCell (m : Memory) (a : Nat) (b : Byte) (x : Host.Cell)
    (h : x ∈ m.setCell a b) : x = (a, b) ∨ x ∈ m := by
  induction m with
  | nil => simpa [Memory.setCell] using h
  | cons y m ih =>
    obtain ⟨k, c⟩ := y
    unfold Memory.setCell at h
    split at h
    · simpa using h
    · split at h
      · rcases List.mem_cons.1 h with h | h
        · exact .inl h
        · exact .inr (by simp [h])
      · rcases List.mem_cons.1 h with h | h
        · exact .inr (by simp [h])
        · rcases ih h with h | h
          · exact .inl h
          · exact .inr (by simp [h])

/-- Writing one cell keeps the canonical form. -/
theorem Memory.setCell_wf (m : Memory) (a : Nat) (b : Byte) (hm : m.wf) : (m.setCell a b).wf := by
  induction m with
  | nil => simp [Memory.setCell, Memory.wf]
  | cons y m ih =>
    obtain ⟨k, c⟩ := y
    have hk := List.pairwise_cons.1 hm
    unfold Memory.setCell
    split
    · rename_i h1
      refine List.pairwise_cons.2 ⟨fun z hz => ?_, hm⟩
      rcases List.mem_cons.1 hz with rfl | hz
      · exact h1
      · exact Nat.lt_trans h1 (hk.1 z hz)
    · split
      · rename_i h1 h2
        subst h2
        exact List.pairwise_cons.2 ⟨hk.1, hk.2⟩
      · rename_i h1 h2
        refine List.pairwise_cons.2 ⟨fun z hz => ?_, ih hk.2⟩
        rcases Memory.mem_setCell m a b z hz with rfl | hz
        · show k < a
          omega
        · exact hk.1 z hz

/-- A store keeps the canonical form. -/
theorem Memory.store_wf (m : Memory) (a : Nat) (bs : List Byte) (hm : m.wf) : (m.store a bs).wf := by
  induction bs generalizing m a with
  | nil => exact hm
  | cons b bs ih => exact ih _ _ (Memory.setCell_wf m a b hm)

/-- A store inside BUF leaves every written byte inside BUF. -/
theorem Memory.store_inBuf (m : Memory) (a : Nat) (bs : List Byte) (size : Nat)
    (hm : m.inBuf size) (ha : bs = [] ∨ a + bs.length ≤ size) : (m.store a bs).inBuf size := by
  induction bs generalizing m a with
  | nil => exact hm
  | cons b bs ih =>
    have hl : a + (bs.length + 1) ≤ size := by simpa using ha
    refine ih _ _ (fun x hx => ?_) (.inr (by omega))
    rcases Memory.mem_setCell m a b x hx with rfl | hx
    · show a < size
      omega
    · exact hm x hx

/-- Reading one cell after a store. -/
theorem Memory.cell_store (m : Memory) (a : Nat) (bs : List Byte) (x : Nat) :
    (m.store a bs).cell x = if a ≤ x ∧ x < a + bs.length then bs[x - a]? else m.cell x := by
  induction bs generalizing m a with
  | nil => simp only [Memory.store, List.length_nil]; rw [if_neg (by omega)]
  | cons b bs ih =>
    rw [Memory.store, ih, Memory.cell_setCell]
    simp only [List.length_cons]
    by_cases h : a + 1 ≤ x ∧ x < a + 1 + bs.length
    · rw [if_pos h, if_pos (by omega), show x - a = (x - (a + 1)) + 1 by omega, List.getElem?_cons_succ]
    · rw [if_neg h]
      by_cases hx : x = a
      · subst hx
        rw [if_pos rfl, if_pos (by omega)]
        simp
      · rw [if_neg hx, if_neg (by omega)]

/-- A store leaves every cell outside its region alone. -/
theorem Memory.cell_store_outside (m : Memory) (a : Nat) (bs : List Byte) (x : Nat)
    (hx : x < a ∨ a + bs.length ≤ x) : (m.store a bs).cell x = m.cell x := by
  rw [Memory.cell_store, if_neg (by omega)]

/-- The cell `i` bytes into a store. -/
theorem Memory.cell_store_inside (m : Memory) (a : Nat) (bs : List Byte) (i : Nat)
    (hi : i < bs.length) : (m.store a bs).cell (a + i) = some bs[i] := by
  rw [Memory.cell_store, if_pos (by omega), Nat.add_sub_cancel_left,
    List.getElem?_eq_getElem hi]

@[simp] theorem Memory.readRegion_length (m : Memory) (d a n : Nat) :
    (m.readRegion d a n).length = n := by simp [Memory.readRegion]

@[simp] theorem Memory.readRegion_getElem (m : Memory) (d a n i : Nat)
    (h : i < (m.readRegion d a n).length) : (m.readRegion d a n)[i] = m.read (d + i) (a + i) := by
  simp [Memory.readRegion]

theorem Memory.readRegion_getElem? (m : Memory) (d a n i : Nat) (h : i < n) :
    (m.readRegion d a n)[i]? = some (m.read (d + i) (a + i)) := by
  rw [List.getElem?_eq_getElem (by simpa using h), Memory.readRegion_getElem]

/-- A written byte reads as it was written, whatever the draw. -/
theorem Memory.read_of_cell (m : Memory) (d a : Nat) (b : Byte) (h : m.cell a = some b) :
    m.read d a = b := by simp [Memory.read, h]

/-- Two memories that agree on the written bytes of a region that is written read alike there,
whatever the draws. -/
theorem Memory.readRegion_of_cells (m : Memory) (d a : Nat) (bs : List Byte)
    (h : ∀ (i : Nat) (hi : i < bs.length), m.cell (a + i) = some bs[i]) :
    m.readRegion d a bs.length = bs := by
  apply List.ext_getElem (by simp)
  intro i h1 h2
  rw [Memory.readRegion_getElem]
  exact Memory.read_of_cell _ _ _ _ (h i h2)

theorem reset_buf_wf : State.reset.buf.wf := List.Pairwise.nil

end Sys2Proof.Machine
end

