-- ==== Sys2Proof/Laws/Bytes.lean ====
section
/-! SUPPORT. Byte order: be32 and BE32 undo each other (spec/00_scope.md R11), and the words that
stand in a byte sequence. -/

namespace Sys2Proof.Machine

@[simp] theorem be32_length (v : Word) : (be32 v).length = 4 := rfl

@[simp] theorem Bytes4_toList_length (b : Bytes4) : b.toList.length = 4 := rfl

/-- Byte `i` of be32. -/
theorem be32_getElem? (v : Word) (i : Nat) (h : i < 4) :
    (be32 v)[i]? = some (v.extractLsb' (24 - 8 * i) 8) := by
  match i, h with
  | 0, _ => rfl
  | 1, _ => rfl
  | 2, _ => rfl
  | 3, _ => rfl

/-- BE32 of the bytes of be32. -/
theorem ofBE_be32 (v : Word) :
    ofBE (v.extractLsb' 24 8) (v.extractLsb' 16 8) (v.extractLsb' 8 8) (v.extractLsb' 0 8) = v := by
  unfold ofBE
  ext i hi
  simp only [BitVec.getElem_append, BitVec.getElem_extractLsb']
  split
  · simp [BitVec.getLsbD_eq_getElem hi]
  · split
    · rw [show 8 + (i - 8) = i by omega, BitVec.getLsbD_eq_getElem hi]
    · split
      · rw [show 16 + (i - 8 - 8) = i by omega, BitVec.getLsbD_eq_getElem hi]
      · rw [show 24 + (i - 8 - 8 - 8) = i by omega, BitVec.getLsbD_eq_getElem hi]

/-- The word that stands after a leading part of a byte sequence. -/
theorem wordAt_append (pre post : List Byte) (v : Word) :
    wordAt (pre ++ (be32 v ++ post)) pre.length = v := by
  have h (k : Nat) : (pre ++ (be32 v ++ post)).getD (pre.length + k) 0 = (be32 v ++ post).getD k 0 := by
    simp [List.getD_eq_getElem?_getD, List.getElem?_append_right]
  have h0 := h 0
  rw [Nat.add_zero] at h0
  unfold wordAt
  rw [h0, h 1, h 2, h 3]
  exact ofBE_be32 v

/-- BE32 by value (R11). -/
theorem ofBE_toNat (b0 b1 b2 b3 : Byte) : (ofBE b0 b1 b2 b3).toNat =
    b0.toNat * 2 ^ 24 + b1.toNat * 2 ^ 16 + b2.toNat * 2 ^ 8 + b3.toNat := by
  unfold ofBE
  have := b0.isLt; have := b1.isLt; have := b2.isLt; have := b3.isLt
  simp only [BitVec.toNat_append]
  rw [← Nat.shiftLeft_add_eq_or_of_lt b3.isLt, ← Nat.shiftLeft_add_eq_or_of_lt b2.isLt,
    ← Nat.shiftLeft_add_eq_or_of_lt b1.isLt]
  simp only [Nat.shiftLeft_eq]
  omega

/-- be32 takes BE32 apart again. -/
theorem be32_ofBE (b0 b1 b2 b3 : Byte) : be32 (ofBE b0 b1 b2 b3) = [b0, b1, b2, b3] := by
  have h := ofBE_toNat b0 b1 b2 b3
  have := b0.isLt; have := b1.isLt; have := b2.isLt; have := b3.isLt
  unfold be32
  congr 1
  · apply BitVec.eq_of_toNat_eq
    rw [BitVec.extractLsb'_toNat, h, Nat.shiftRight_eq_div_pow]; omega
  congr 1
  · apply BitVec.eq_of_toNat_eq
    rw [BitVec.extractLsb'_toNat, h, Nat.shiftRight_eq_div_pow]; omega
  congr 1
  · apply BitVec.eq_of_toNat_eq
    rw [BitVec.extractLsb'_toNat, h, Nat.shiftRight_eq_div_pow]; omega
  congr 1
  · apply BitVec.eq_of_toNat_eq
    rw [BitVec.extractLsb'_toNat, h, Nat.shiftRight_eq_div_pow]; omega

end Sys2Proof.Machine
end

