-- ==== Sys2Proof/Laws/Commands.lean ====
section
/-! SUPPORT. What each command can do, said once: the completion step, SER and DES by cases, the
bytes SER lays out, and the pad DES accepts. -/

namespace Sys2Proof.Machine

/-! ## The completion step -/

@[simp] theorem State.complete_ok (s t : State) (n : Nat) :
    s.complete n (.ok t) = t.finish .ok n := rfl

@[simp] theorem State.complete_error (s : State) (n : Nat) (r : Raise) :
    s.complete n (.error r) =
      { s with hdrErr := r.hdrErr.getD s.hdrErr }.finish r.code n := rfl

theorem StatusCode.bits_le (c : StatusCode) : c.bits ≤ 8#4 := by cases c <;> decide

/-- The codes are distinct. -/
theorem StatusCode.bits_inj : ∀ c d : StatusCode, c.bits = d.bits → c = d := by
  intro c d; cases c <;> cases d <;> decide

/-- The end of a completion is the status report of the statements. -/
theorem State.finish_eq_reported (s : State) (c : StatusCode) (n : Nat) :
    s.finish c n = s.reported c.bits n := rfl

/-! ## The padding engine -/

theorem padSer_lt (n : Nat) : padSer n < 4 := Nat.mod_lt _ (by decide)

theorem wireSize_mod (n : Nat) : wireSize n % 4 = 0 := by unfold wireSize padSer; omega

theorem wireSize_le (n : Nat) (h : n ≤ 65519) : 16 ≤ wireSize n ∧ wireSize n ≤ 65536 := by
  unfold wireSize padSer; omega

/-- The length field SER builds is not truncated (R108). -/
theorem serHeader_length (P : Params) (s : State) (h : s.dataLen.toNat ≤ 65519) :
    (serHeader P s).length.toNat = wireSize s.dataLen.toNat / 4 - 1 := by
  have := wireSize_le _ h
  show (BitVec.ofNat 16 _).toNat = _
  rw [BitVec.toNat_ofNat]
  omega

/-! ## SER -/

@[simp] theorem State.dataBytes_length (s : State) : s.dataBytes.length = s.dataLen.toNat := by
  simp [State.dataBytes]

@[simp] theorem State.wireBytes_length (s : State) : s.wireBytes.length = s.wireLen.toNat := by
  simp [State.wireBytes]

@[simp] theorem serOutput_length (s : State) (hb : Bytes4) :
    (serOutput s hb).length = wireSize s.dataLen.toNat := by
  simp [serOutput, wireSize]
  omega

/-- SER by cases, in the order of R136. -/
theorem serResult_cases (P : Params) (s : State) :
    (65519 < s.dataLen.toNat ∧ serResult P s = .error ⟨.dataTooLarge, none⟩) ∨
    (s.dataLen.toNat ≤ 65519 ∧ s.nameLen ≠ 4#32 ∧ serResult P s = .error ⟨.invalidName, none⟩) ∨
    (s.dataLen.toNat ≤ 65519 ∧ s.nameLen = 4#32 ∧ ∃ e, P.hc.ser (serHeader P s) = .error e ∧
      serResult P s = .error ⟨.headerError, some (e.setWidth 32)⟩) ∨
    (s.dataLen.toNat ≤ 65519 ∧ s.nameLen = 4#32 ∧ ∃ hb, P.hc.ser (serHeader P s) = .ok hb ∧
      ¬(inBounds P s.dataPtr.toNat s.dataLen.toNat ∧ inBounds P s.wirePtr.toNat (wireSize s.dataLen.toNat)) ∧
      serResult P s = .error ⟨.bufferFault, none⟩) ∨
    (s.dataLen.toNat ≤ 65519 ∧ s.nameLen = 4#32 ∧ ∃ hb, P.hc.ser (serHeader P s) = .ok hb ∧
      (inBounds P s.dataPtr.toNat s.dataLen.toNat ∧ inBounds P s.wirePtr.toNat (wireSize s.dataLen.toNat)) ∧
      serResult P s = .ok { s with
        buf := s.buf.store s.wirePtr.toNat (serOutput s hb)
        wireLen := BitVec.ofNat 32 (wireSize s.dataLen.toNat) }) := by
  unfold serResult headerSer dataMax
  by_cases h1 : s.dataLen.toNat > 65519
  · exact .inl ⟨h1, if_pos h1⟩
  · rw [if_neg h1]
    have h1 : s.dataLen.toNat ≤ 65519 := by omega
    by_cases h2 : s.nameLen = 4#32
    · rw [if_neg (not_not.2 h2)]
      cases h3 : P.hc.ser (serHeader P s) with
      | error e => exact .inr (.inr (.inl ⟨h1, h2, e, rfl, rfl⟩))
      | ok hb =>
        by_cases h4 : inBounds P s.dataPtr.toNat s.dataLen.toNat ∧ inBounds P s.wirePtr.toNat (wireSize s.dataLen.toNat)
        · exact .inr (.inr (.inr (.inr ⟨h1, h2, hb, rfl, h4, if_pos h4⟩)))
        · exact .inr (.inr (.inr (.inl ⟨h1, h2, hb, rfl, h4, if_neg h4⟩)))
    · exact .inr (.inl ⟨h1, h2, if_pos h2⟩)

/-- SER past all its checks. -/
theorem serResult_ok (s : State) (hb : Bytes4) (h : s.SerInput hb) :
    serResult s.params s = .ok { s with
      buf := s.buf.store s.wirePtr.toNat (serOutput s hb)
      wireLen := BitVec.ofNat 32 (wireSize s.dataLen.toNat) } := by
  have h1 : ¬ s.dataLen.toNat > dataMax := by have := h.capped; unfold dataMax; omega
  unfold serResult headerSer
  rw [if_neg h1, if_neg (not_not.2 h.named), h.headed]
  exact if_pos ⟨h.dataBounded, h.wireBounded⟩

/-- SER that ends with OK passed all its checks. -/
theorem serInput_of_ok (s t : State) (h : serResult s.params s = .ok t) : ∃ hb, s.SerInput hb := by
  rcases serResult_cases s.params s with ⟨_, h1⟩ | ⟨_, _, h1⟩ | ⟨_, _, e, _, h1⟩ | ⟨_, _, hb, _, _, h1⟩ |
    ⟨a, b, hb, c, d, h1⟩
  · rw [h1] at h; cases h
  · rw [h1] at h; cases h
  · rw [h1] at h; cases h
  · rw [h1] at h; cases h
  · exact ⟨hb, a, b, c, d.1, d.2⟩

/-- The output of SER as one part after another. -/
theorem serOutput_eq (s : State) (hb : Bytes4) :
    serOutput s hb = hb.toList ++ (be32 s.senderSsrc ++ (be32 s.name ++ (be32 s.mediaSsrc ++
      (s.dataBytes ++
        List.replicate (padSer s.dataLen.toNat) (BitVec.ofNat 8 (padSer s.dataLen.toNat)))))) := by
  simp [serOutput]

/-- The parts of SER's output by their index (R104). -/
theorem serOutput_getElem? (s : State) (hb : Bytes4) (i : Nat) :
    (i < 4 → (serOutput s hb)[i]? = hb.toList[i]?) ∧
    (4 ≤ i → i < 8 → (serOutput s hb)[i]? = some (s.senderSsrc.extractLsb' (24 - 8 * (i - 4)) 8)) ∧
    (8 ≤ i → i < 12 → (serOutput s hb)[i]? = some (s.name.extractLsb' (24 - 8 * (i - 8)) 8)) ∧
    (12 ≤ i → i < 16 →
      (serOutput s hb)[i]? = some (s.mediaSsrc.extractLsb' (24 - 8 * (i - 12)) 8)) ∧
    (16 ≤ i → i < 16 + s.dataLen.toNat →
      (serOutput s hb)[i]? = some (s.buf.read (s.draws + (i - 16)) (s.dataPtr.toNat + (i - 16)))) ∧
    (16 + s.dataLen.toNat ≤ i → i < wireSize s.dataLen.toNat →
      (serOutput s hb)[i]? = some (BitVec.ofNat 8 (padSer s.dataLen.toNat))) := by
  simp only [serOutput_eq, List.getElem?_append, be32_length, Bytes4_toList_length,
    State.dataBytes_length]
  refine ⟨fun h0 => ?_, fun h1 h2 => ?_, fun h1 h2 => ?_, fun h1 h2 => ?_, fun h1 h2 => ?_,
    fun h1 h2 => ?_⟩
  · rw [if_pos h0]
  · rw [if_neg (by omega), if_pos (by omega), be32_getElem? _ _ (by omega)]
  · rw [if_neg (by omega), if_neg (by omega), if_pos (by omega), be32_getElem? _ _ (by omega),
      show i - 4 - 4 = i - 8 by omega]
  · rw [if_neg (by omega), if_neg (by omega), if_neg (by omega), if_pos (by omega),
      be32_getElem? _ _ (by omega), show i - 4 - 4 - 4 = i - 12 by omega]
  · rw [if_neg (by omega), if_neg (by omega), if_neg (by omega), if_neg (by omega),
      if_pos (by omega), show i - 4 - 4 - 4 - 4 = i - 16 by omega]
    exact Memory.readRegion_getElem? _ _ _ _ _ (by omega)
  · rw [if_neg (by omega), if_neg (by omega), if_neg (by omega), if_neg (by omega),
      if_neg (by omega), List.getElem?_replicate, if_pos (by unfold wireSize at h2; omega)]

/-! ## DES -/

/-- The pad DES accepts, or WRONG_PADDING (R118, R119, R120). -/
theorem desPad_cases (strict : Bool) (h : Header) (input : List Byte) :
    (∃ p, padAccepted strict h input p ∧ desPad strict h input = .ok p) ∨
    ((∀ p, ¬ padAccepted strict h input p) ∧ desPad strict h input = .error ⟨.wrongPadding, none⟩) := by
  unfold desPad padAccepted
  by_cases hf : h.paddingFlag = true
  · simp only [hf, if_true]
    by_cases h1 : (input.getD (input.length - 1) 0).toNat > input.length - 16
    · rw [if_pos h1]
      exact .inr ⟨fun p hp => by omega, rfl⟩
    · rw [if_neg h1]
      have key : ((input.drop (input.length - (input.getD (input.length - 1) 0).toNat)).all
          fun b => b.toNat == (input.getD (input.length - 1) 0).toNat) = true ↔
          ∀ i, input.length - (input.getD (input.length - 1) 0).toNat ≤ i → i < input.length →
            (input.getD i 0).toNat = (input.getD (input.length - 1) 0).toNat := by
        generalize (input.getD (input.length - 1) 0).toNat = p
        rw [List.all_eq_true]
        constructor
        · intro h i hi hl
          have hm : input.getD i 0 ∈ input.drop (input.length - p) := by
            rw [List.mem_iff_getElem?]
            refine ⟨i - (input.length - p), ?_⟩
            rw [List.getElem?_drop, List.getD_eq_getElem?_getD,
              show input.length - p + (i - (input.length - p)) = i by omega,
              List.getElem?_eq_getElem hl]
            rfl
          simpa using h _ hm
        · intro h b hb
          rw [List.mem_iff_getElem?] at hb
          obtain ⟨j, hj⟩ := hb
          rw [List.getElem?_drop] at hj
          have hl : input.length - p + j < input.length := (List.getElem?_eq_some_iff.1 hj).1
          have := h (input.length - p + j) (by omega) hl
          rw [List.getD_eq_getElem?_getD, hj] at this
          simpa using this
      by_cases h2 : strict = true
      · subst h2
        by_cases h3 : ((input.drop (input.length - (input.getD (input.length - 1) 0).toNat)).all
          fun b => b.toNat == (input.getD (input.length - 1) 0).toNat) = true
        · refine .inl ⟨_, ⟨rfl, by omega, fun _ => key.1 h3⟩, ?_⟩
          rw [h3]; rfl
        · refine .inr ⟨fun p ⟨hp, _, hs⟩ => h3 (key.2 ?_), ?_⟩
          · rw [hp] at hs; exact hs rfl
          · rw [Bool.not_eq_true] at h3
            rw [h3]; rfl
      · rw [Bool.not_eq_true] at h2
        subst h2
        exact .inl ⟨_, ⟨rfl, by omega, fun h => by cases h⟩, rfl⟩
  · rw [Bool.not_eq_true] at hf
    simp only [hf]
    exact .inl ⟨0, rfl, rfl⟩

/-- The accepted pad is one value. -/
theorem padAccepted_unique (strict strict' : Bool) (h : Header) (input : List Byte) (p q : Nat)
    (hp : padAccepted strict h input p) (hq : padAccepted strict' h input q) : p = q := by
  unfold padAccepted at hp hq
  split at hp
  · rename_i hf
    rw [if_pos hf] at hq
    rw [hp.1, hq.1]
  · rename_i hf
    rw [if_neg hf] at hq
    rw [hp, hq]

/-- The accepted pad leaves the fixed 16 bytes alone (R119, R121). -/
theorem padAccepted_le (strict : Bool) (h : Header) (input : List Byte) (p : Nat)
    (hp : padAccepted strict h input p) : p ≤ input.length - 16 ∧ p ≤ 255 := by
  unfold padAccepted at hp
  split at hp
  · obtain ⟨hp, hl, _⟩ := hp
    have := (input.getD (input.length - 1) 0).isLt
    omega
  · omega

/-- DES by cases, in the order of R137. -/
theorem desResult_cases (P : Params) (aliased strict : Bool) (s : State) :
    (¬ inBounds P s.wirePtr.toNat s.wireLen.toNat ∧
      desResult P aliased strict s = .error ⟨.bufferFault, none⟩) ∨
    (inBounds P s.wirePtr.toNat s.wireLen.toNat ∧ ∃ e, P.hc.parse s.wireBytes = .error e ∧
      desResult P aliased strict s = .error ⟨.headerError, some (e.setWidth 32)⟩) ∨
    (inBounds P s.wirePtr.toNat s.wireLen.toNat ∧ ∃ h, P.hc.parse s.wireBytes = .ok h ∧
      ((s.wireLen.toNat < 16 ∧ desResult P aliased strict s = .error ⟨.packetTooShort, none⟩) ∨
       (16 ≤ s.wireLen.toNat ∧ (h.length.toNat + 1) * 4 ≠ s.wireLen.toNat ∧
         desResult P aliased strict s = .error ⟨.invalidLength, none⟩) ∨
       (16 ≤ s.wireLen.toNat ∧ (h.length.toNat + 1) * 4 = s.wireLen.toNat ∧
         (∀ p, ¬ padAccepted strict h s.wireBytes p) ∧
         desResult P aliased strict s = .error ⟨.wrongPadding, none⟩) ∨
       (16 ≤ s.wireLen.toNat ∧ (h.length.toNat + 1) * 4 = s.wireLen.toNat ∧
         ∃ p, padAccepted strict h s.wireBytes p ∧
         desResult P aliased strict s =
           desDeliver P aliased s h s.wireBytes (s.wireLen.toNat - 16 - p)))) := by
  unfold desResult headerParse
  by_cases h1 : inBounds P s.wirePtr.toNat s.wireLen.toNat
  · rw [if_pos h1]
    cases h2 : P.hc.parse s.wireBytes with
    | error e => exact .inr (.inl ⟨h1, e, rfl, rfl⟩)
    | ok h =>
      refine .inr (.inr ⟨h1, h, rfl, ?_⟩)
      show (_ ∧ desBody P aliased strict s h s.wireBytes = _) ∨
        (_ ∧ _ ∧ desBody P aliased strict s h s.wireBytes = _) ∨
        (_ ∧ _ ∧ _ ∧ desBody P aliased strict s h s.wireBytes = _) ∨
        (_ ∧ _ ∧ ∃ p, _ ∧ desBody P aliased strict s h s.wireBytes = _)
      unfold desBody
      rw [State.wireBytes_length]
      by_cases h3 : s.wireLen.toNat < 16
      · exact .inl ⟨h3, if_pos h3⟩
      · rw [if_neg h3]
        have h3 : 16 ≤ s.wireLen.toNat := by omega
        by_cases h4 : (h.length.toNat + 1) * 4 = s.wireLen.toNat
        · rw [if_neg (not_not.2 h4)]
          rcases desPad_cases strict h s.wireBytes with ⟨p, hp, h5⟩ | ⟨hp, h5⟩
          · rw [h5]
            exact .inr (.inr (.inr ⟨h3, h4, p, hp, rfl⟩))
          · rw [h5]
            exact .inr (.inr (.inl ⟨h3, h4, hp, rfl⟩))
        · exact .inr (.inl ⟨h3, h4, if_pos h4⟩)
  · exact .inl ⟨h1, if_neg h1⟩

/-- DES past its checks of the input. -/
theorem desResult_input (aliased strict : Bool) (s : State) (h : Header) (p : Nat)
    (hi : s.DesInput strict h p) :
    desResult s.params aliased strict s =
      desDeliver s.params aliased s h s.wireBytes (s.wireLen.toNat - 16 - p) := by
  rcases desResult_cases s.params aliased strict s with ⟨h1, _⟩ | ⟨_, e, h1, _⟩ |
    ⟨_, h', h1, ⟨h2, _⟩ | ⟨_, h2, _⟩ | ⟨_, _, h2, _⟩ | ⟨_, _, q, h2, h3⟩⟩
  · exact absurd hi.bounded h1
  · rw [hi.parsed] at h1; cases h1
  · exact absurd hi.long (by omega)
  · rw [hi.parsed] at h1; cases h1; exact absurd hi.matched h2
  · rw [hi.parsed] at h1; cases h1; exact absurd hi.padded (h2 p)
  · rw [hi.parsed] at h1; cases h1
    rw [h3, padAccepted_unique _ _ _ _ _ _ h2 hi.padded]

/-- The four DES commands are one meaning at their option bits (R112). -/
theorem exec_desForm (a st : Bool) (s : State) :
    exec (desForm a st) s = .next (s.complete s.wireLen.toNat (desResult s.params a st s)) := by
  cases a <;> cases st <;> rfl

theorem exec_ser (s : State) : exec .ser s = .next (s.complete s.dataLen.toNat (serResult s.params s)) :=
  rfl

theorem exec_size (s : State) : exec .size s = .next (s.complete 0 (sizeResult s)) := rfl

/-- Every command is SIZE, SER or a form of DES. -/
theorem instr_cases (i : Instr) : i = .size ∨ i = .ser ∨ ∃ a st, i = desForm a st := by
  cases i with
  | size => exact .inl rfl
  | ser => exact .inr (.inl rfl)
  | des => exact .inr (.inr ⟨false, false, rfl⟩)
  | desA => exact .inr (.inr ⟨true, false, rfl⟩)
  | desS => exact .inr (.inr ⟨false, true, rfl⟩)
  | desAS => exact .inr (.inr ⟨true, true, rfl⟩)

end Sys2Proof.Machine
end

