-- ==== Sys2Proof/Laws/PerInstr.lean ====
section
/-! SUPPORT. The laws made per instruction: the instruction is well formed, and its word decodes to it
with the fields the opcode table gives. -/

namespace Sys2Proof.Laws.RoundTrip

/-- The instruction is well formed, its word has its fields, and its word decodes to it. -/
def Statement (i : Instr) : Prop :=
  i.wellFormed = true ∧ Cmd32.ofWord (encode i) = i.fields ∧ decode (encode i) = .ok i

theorem size : Statement .size := by unfold Statement; decide
theorem ser : Statement .ser := by unfold Statement; decide
theorem des : Statement .des := by unfold Statement; decide
theorem desA : Statement .desA := by unfold Statement; decide
theorem desS : Statement .desS := by unfold Statement; decide
theorem desAS : Statement .desAS := by unfold Statement; decide

end Sys2Proof.Laws.RoundTrip
end

