-- ==== Sys2Proof/Laws/Steps.lean ====
section
/-! SUPPORT. What one step can do, said once: the turn it takes, the accesses of the Host by cases,
the completion of a command, and that a state's parameters never change. -/

namespace Sys2Proof.Machine

/-- A step is the next turn of the schedule, taken off it. -/
theorem step_eq (s : State) : step s = takeTurn s.nextTurn s.popTurn := by
  obtain ⟨⟩ := s
  rename_i sch _ _
  cases sch <;> rfl

theorem step_of_host (s : State) (a : Access) (h : s.hostNext a) :
    step s = .next (s.popTurn.hostAccess a) := by
  rw [step_eq, show s.nextTurn = _ from h]; rfl

theorem step_of_engine (s : State) (h : s.nextTurn = ⟨false, .engine⟩) :
    step s = engineTurn s.popTurn := by
  rw [step_eq, h]; rfl

theorem step_of_reset (s : State) (h : s.nextTurn.reset = true) :
    step s = .next s.popTurn.resetBlock := by
  rw [step_eq, takeTurn, if_pos h]

/-- A step that completes a command runs the command decoded from `cur` (R133). -/
theorem step_of_decoded (s : State) (i : Instr) (h : s.completesNext) (hd : decode s.cur = .ok i) :
    step s = exec i s.popTurn := by
  rw [step_of_engine s h.1, engineTurn]
  simp [h.2.1, h.2.2, hd]

theorem step_of_reserved (s : State) (e : BadWord) (h : s.completesNext)
    (hd : decode s.cur = .error e) : step s = .next s.popTurn.completeBad := by
  rw [step_of_engine s h.1, engineTurn]
  simp [h.2.1, h.2.2, hd]

/-- Every command's completion step answers a next state that is a completion of the state it
started in: nothing but the draws depends on how much it read. -/
theorem exec_complete (i : Instr) (s : State) : ∃ n r, exec i s = .next (s.complete n r) := by
  rcases instr_cases i with rfl | rfl | ⟨a, st, rfl⟩
  · exact ⟨_, _, exec_size s⟩
  · exact ⟨_, _, exec_ser s⟩
  · exact ⟨_, _, exec_desForm a st s⟩

/-- The six things a step can do. -/
theorem step_cases (s : State) :
    (s.nextTurn.reset = true ∧ step s = .next s.popTurn.resetBlock) ∨
    (∃ a, s.hostNext a ∧ step s = .next (s.popTurn.hostAccess a)) ∨
    (s.nextTurn = ⟨false, .engine⟩ ∧ s.busy = false ∧ step s = .next s.popTurn) ∨
    (s.nextTurn = ⟨false, .engine⟩ ∧ s.busy = true ∧ s.tainted = true ∧
      step s = .next s.popTurn.completeTainted) ∨
    (s.completesNext ∧ ∃ i, decode s.cur = .ok i ∧ step s = exec i s.popTurn) ∨
    (s.completesNext ∧ (∃ e, decode s.cur = .error e) ∧ step s = .next s.popTurn.completeBad) := by
  by_cases hr : s.nextTurn.reset = true
  · exact .inl ⟨hr, step_of_reset s hr⟩
  · rw [Bool.not_eq_true] at hr
    cases ht : s.nextTurn.action with
    | access a =>
      have h : s.hostNext a := by unfold State.hostNext; rw [← hr, ← ht]
      exact .inr (.inl ⟨a, h, step_of_host s a h⟩)
    | engine =>
      have h : s.nextTurn = ⟨false, .engine⟩ := by rw [← hr, ← ht]
      cases hb : s.busy with
      | false =>
        refine .inr (.inr (.inl ⟨h, rfl, ?_⟩))
        rw [step_of_engine s h, engineTurn]
        simp [hb]
      | true =>
        cases hc : s.tainted with
        | true =>
          refine .inr (.inr (.inr (.inl ⟨h, rfl, rfl, ?_⟩)))
          rw [step_of_engine s h, engineTurn]
          simp [hb, hc]
        | false =>
          have hn : s.completesNext := ⟨h, hb, hc⟩
          cases hd : decode s.cur with
          | ok i => exact .inr (.inr (.inr (.inr (.inl ⟨hn, i, rfl, step_of_decoded s i hn hd⟩))))
          | error e => exact .inr (.inr (.inr (.inr (.inr ⟨hn, ⟨e, rfl⟩, step_of_reserved s e hn hd⟩))))

/-- A host read changes nothing but the response, the model's draw counter and, for an illegal
access, the fault record (R61). -/
theorem hostRead_frame (s : State) (w : Nat) (o : Offset) :
    (∃ r n, s.hostRead w o = { s with response := r, draws := s.draws + n }) ∨
    (target s.params w o.toNat = .illegal ∧ s.hostRead w o = s.busError) := by
  unfold State.hostRead
  split
  · rename_i h; exact .inr ⟨h, rfl⟩
  · exact .inl ⟨_, 0, rfl⟩
  · split
    · exact .inl ⟨_, 1, rfl⟩
    · exact .inl ⟨_, 0, rfl⟩
  · split
    · exact .inl ⟨_, 1, rfl⟩
    · unfold State.readBuf
      split
      · exact .inl ⟨_, 1, rfl⟩
      · exact .inl ⟨_, 4, rfl⟩

/-- A host write by cases (R49 to R53, R158). -/
theorem hostWrite_cases (s : State) (w : Nat) (o : Offset) (v : Word) :
    (target s.params w o.toNat = .illegal ∧ s.hostWrite w o v = s.busError) ∨
    (target s.params w o.toNat = .reserved ∧ s.hostWrite w o v = s.respond .written) ∨
    (∃ r, target s.params w o.toNat = .reg r ∧ s.busy = true ∧ r.isField = true ∧
      s.hostWrite w o v = s.hazard) ∨
    (∃ r, target s.params w o.toNat = .reg r ∧ (s.busy && r.isField) = false ∧
      s.hostWrite w o v = (s.setReg v r).respond .written) ∨
    (∃ a, target s.params w o.toNat = .buf a ∧ s.busy = true ∧ s.hostWrite w o v = s.hazard) ∨
    (∃ a, target s.params w o.toNat = .buf a ∧ s.busy = false ∧
      s.hostWrite w o v = { s with buf := s.buf.store a (storedBytes w v) }.respond .written) := by
  unfold State.hostWrite
  split
  · rename_i h; exact .inl ⟨h, rfl⟩
  · rename_i h; exact .inr (.inl ⟨h, rfl⟩)
  · rename_i r h
    by_cases hb : (s.busy && r.isField) = true
    · rw [if_pos hb]
      rw [Bool.and_eq_true] at hb
      exact .inr (.inr (.inl ⟨r, h, hb.1, hb.2, rfl⟩))
    · rw [if_neg hb]
      rw [Bool.not_eq_true] at hb
      exact .inr (.inr (.inr (.inl ⟨r, h, hb, rfl⟩)))
  · rename_i a h
    by_cases hb : s.busy = true
    · rw [if_pos hb]
      exact .inr (.inr (.inr (.inr (.inl ⟨a, h, hb, rfl⟩))))
    · rw [if_neg hb]
      rw [Bool.not_eq_true] at hb
      exact .inr (.inr (.inr (.inr (.inr ⟨a, h, hb, rfl⟩))))

/-- What a register write leaves alone. -/
theorem setReg_frame (s : State) (v : Word) (r : Reg) :
    (s.setReg v r).buf = s.buf ∧ (s.setReg v r).code = s.code ∧ (s.setReg v r).hdrErr = s.hdrErr ∧
    (s.setReg v r).faults = s.faults ∧ (s.setReg v r).draws = s.draws ∧
    (s.setReg v r).tainted = s.tainted ∧ (s.setReg v r).schedule = s.schedule ∧
    (s.setReg v r).setting = s.setting := by
  cases r <;>
    first
    | exact ⟨rfl, rfl, rfl, rfl, rfl, rfl, rfl, rfl⟩
    | (unfold State.setReg State.writeCmd
       by_cases h : s.busy = true <;> simp [h])

/-- The target of each register's offset. -/
theorem target_reg (P : Params) (r : Reg) : target P 32 r.offset = .reg r := by cases r <;> rfl

/-- The offset of a register fits the host's window. -/
theorem reg_offset_toNat (r : Reg) : (BitVec.ofNat 25 r.offset).toNat = r.offset := by
  cases r <;> rfl

/-- The BUF window, byte by byte (R50). -/
theorem target_buf_byte (P : Params) (a : Nat) (h : a < P.bufSize) :
    target P 8 (bufBase + a) = .buf a := by
  unfold target windowTarget bufBase regSpaceEnd
  rw [if_neg (by decide), if_pos rfl, if_neg (by omega), if_pos (by omega), Nat.add_sub_cancel_left]

/-- The BUF window, word by word (R51). -/
theorem target_buf_word (P : Params) (a : Nat) (h : a < P.bufSize) (h4 : a % 4 = 0) :
    target P 32 (bufBase + a) = .buf a := by
  unfold target windowTarget bufBase regSpaceEnd
  rw [if_pos rfl, if_neg (by omega), if_neg (by omega), if_pos (by omega), Nat.add_sub_cancel_left]

/-- An access that reaches BUF stays inside it. -/
theorem target_buf_bounds (P : Params) (w o a : Nat) (h : target P w o = .buf a) :
    a < P.bufSize ∧ (w = 8 ∨ (w = 32 ∧ a % 4 = 0 ∧ a + 4 ≤ P.bufSize)) := by
  have hw (o : Nat) (h : windowTarget P o = .buf a) : a < P.bufSize ∧ a = o - bufBase ∧ bufBase ≤ o := by
    unfold windowTarget at h
    split at h
    · rename_i hb
      rw [Target.buf.injEq] at h
      omega
    · cases h
  have ha := P.bufSize_align
  unfold target at h
  split at h
  · split at h
    · cases h
    · split at h
      · split at h <;> cases h
      · obtain ⟨h1, h2, h3⟩ := hw o h
        unfold bufBase at h2 h3
        exact ⟨h1, .inr ⟨by assumption, by omega, by omega⟩⟩
  · split at h
    · split at h
      · cases h
      · exact ⟨(hw o h).1, .inl (by assumption)⟩
    · cases h

/-- A host write to a register that is no hazard (R21). -/
theorem hostWrite_reg (s : State) (r : Reg) (v : Word) (h : (s.busy && r.isField) = false) :
    s.hostWrite 32 (BitVec.ofNat 25 r.offset) v = (s.setReg v r).respond .written := by
  unfold State.hostWrite
  rw [reg_offset_toNat, target_reg]
  simp [h]

/-- A host read of a register that the command in flight does not hold (R21). -/
theorem hostRead_reg (s : State) (r : Reg) (h : (s.busy && r.heldWhileBusy) = false) :
    s.hostRead 32 (BitVec.ofNat 25 r.offset) = s.respond (.word (s.regValue r)) := by
  unfold State.hostRead
  rw [reg_offset_toNat, target_reg]
  simp [h]

/-- The only access that reaches a register is a 32-bit one at its offset (R49). -/
theorem target_reg_inv (P : Params) (w : Nat) (o : Offset) (r : Reg)
    (h : target P w o.toNat = .reg r) : w = 32 ∧ o = BitVec.ofNat 25 r.offset := by
  unfold target windowTarget at h
  split at h
  · rename_i hw
    refine ⟨hw, ?_⟩
    split at h
    · cases h
    · split at h
      · split at h
        · rename_i r' hr
          cases h
          unfold Reg.ofOffset at hr
          have := List.find?_some hr
          simp at this
          apply BitVec.eq_of_toNat_eq
          rw [reg_offset_toNat, this]
        · cases h
      · split at h <;> cases h
  · split at h
    · split at h
      · cases h
      · split at h <;> cases h
    · cases h

/-- What a host access does to STATUS and HDR_ERR (R32, R38, R61): a CMD write issues or sets OVR, a
STATUS write acknowledges, and every other access leaves both alone. -/
theorem hostAccess_status (s : State) (a : Access) :
    (∃ w, a = .write 32 0x000 w ∧ s.busy = false ∧ s.hostAccess a = (s.issue w).respond .written) ∨
    (∃ w, a = .write 32 0x000 w ∧ s.busy = true ∧
      s.hostAccess a = { s with ovr := true }.respond .written) ∨
    (∃ v, a = .write 32 0x004 v ∧ s.hostAccess a = (s.ackStatus v).respond .written) ∨
    ((s.hostAccess a).busy = s.busy ∧ (s.hostAccess a).done = s.done ∧
      (s.hostAccess a).ovr = s.ovr ∧ (s.hostAccess a).code = s.code ∧
      (s.hostAccess a).hdrErr = s.hdrErr) := by
  cases a with
  | read w o =>
    refine .inr (.inr (.inr ?_))
    rcases hostRead_frame s w o with ⟨r, n, h⟩ | ⟨_, h⟩ <;> rw [State.hostAccess, h] <;>
      exact ⟨rfl, rfl, rfl, rfl, rfl⟩
  | write w o v =>
    rcases hostWrite_cases s w o v with ⟨_, h⟩ | ⟨_, h⟩ | ⟨r, _, _, _, h⟩ | ⟨r, ht, _, h⟩ |
      ⟨a, _, _, h⟩ | ⟨a, _, _, h⟩ <;> rw [State.hostAccess, h]
    case inr.inr.inr.inl =>
      obtain ⟨rfl, rfl⟩ := target_reg_inv _ _ _ _ ht
      cases r
      case cmd =>
        cases hb : s.busy with
        | false => exact .inl ⟨v, rfl, rfl, by simp [State.setReg, State.writeCmd, hb]⟩
        | true => exact .inr (.inl ⟨v, rfl, rfl, by simp [State.setReg, State.writeCmd, hb]⟩)
      case status => exact .inr (.inr (.inl ⟨v, rfl, rfl⟩))
      all_goals exact .inr (.inr (.inr ⟨rfl, rfl, rfl, rfl, rfl⟩))
    all_goals exact .inr (.inr (.inr ⟨rfl, rfl, rfl, rfl, rfl⟩))

/-- What a command with no error leaves alone: OVR, the fault record, HDR_ERR and the setting; and BUF
keeps its canonical form and its bounds. -/
structure State.SameBlock (P : Params) (s t : State) : Prop where
  ovr     : t.ovr = s.ovr
  faults  : t.faults = s.faults
  hdrErr  : t.hdrErr = s.hdrErr
  setting : t.setting = s.setting
  buf     : s.buf.wf → s.buf.inBuf P.bufSize → t.buf.wf ∧ t.buf.inBuf P.bufSize

theorem serResult_same (P : Params) (s t : State) (h : serResult P s = .ok t) : s.SameBlock P t := by
  rcases serResult_cases P s with ⟨_, h1⟩ | ⟨_, _, h1⟩ | ⟨_, _, e, _, h1⟩ |
    ⟨_, _, hb, _, _, h1⟩ | ⟨_, _, hb, _, hbb, h1⟩ <;> rw [h1] at h <;> cases h
  refine ⟨rfl, rfl, rfl, rfl, fun h2 h3 => ?_⟩
  dsimp only
  refine ⟨Memory.store_wf _ _ _ h2, Memory.store_inBuf _ _ _ _ h3 (.inr ?_)⟩
  rw [serOutput_length]
  have hw := hbb.2
  unfold inBounds at hw
  rcases hw with hw | hw
  · unfold wireSize at hw; omega
  · exact hw

theorem desResult_same (P : Params) (a st : Bool) (s t : State) (h : desResult P a st s = .ok t) :
    s.SameBlock P t := by
  rcases desResult_cases P a st s with ⟨_, h1⟩ | ⟨_, e, _, h1⟩ |
    ⟨_, hd, _, ⟨_, h1⟩ | ⟨_, _, h1⟩ | ⟨_, _, _, h1⟩ | ⟨_, _, p, _, h1⟩⟩ <;>
    rw [h1] at h <;> try (cases h)
  unfold desDeliver at h
  split at h
  · cases h
    exact ⟨rfl, rfl, rfl, rfl, fun h2 h3 => ⟨h2, h3⟩⟩
  · split at h
    · rename_i hb
      cases h
      refine ⟨rfl, rfl, rfl, rfl, fun h2 h3 => ?_⟩
      dsimp only
      refine ⟨Memory.store_wf _ _ _ h2, Memory.store_inBuf _ _ _ _ h3 ?_⟩
      have hl : (List.take (s.wireLen.toNat - 16 - p) (List.drop 16 s.wireBytes)).length =
          s.wireLen.toNat - 16 - p := by simp
      rcases hb with hb | hb
      · left; rw [hb]; rfl
      · right; rw [hl]; exact hb
    · cases h

/-- Every command completes (R133): with OK it leaves `SameBlock` alone, and the error value it may
put into HDR_ERR has HDR_ERR_W bits (R135). -/
theorem exec_result (i : Instr) (s : State) : ∃ n r, exec i s = .next (s.complete n r) ∧
    (∀ t, r = .ok t → s.SameBlock s.params t) ∧
    (∀ e x, r = .error e → e.hdrErr = some x → x.toNat < 2 ^ s.params.hdrErrW) := by
  have hs (e : BitVec s.params.hdrErrW) : (e.setWidth 32).toNat < 2 ^ s.params.hdrErrW := by
    rw [BitVec.toNat_setWidth]
    exact Nat.lt_of_le_of_lt (Nat.mod_le _ _) e.isLt
  rcases instr_cases i with rfl | rfl | ⟨a, st, rfl⟩
  · refine ⟨_, _, exec_size s, ?_, ?_⟩
    · intro t h; cases h; exact ⟨rfl, rfl, rfl, rfl, fun a b => ⟨a, b⟩⟩
    · intro e x h; cases h
  · refine ⟨_, _, exec_ser s, fun t h => serResult_same _ _ _ h, ?_⟩
    intro e x h hx
    rcases serResult_cases s.params s with ⟨_, h1⟩ | ⟨_, _, h1⟩ | ⟨_, _, e, _, h1⟩ |
      ⟨_, _, hb, _, _, h1⟩ | ⟨_, _, hb, _, hbb, h1⟩ <;> rw [h1] at h <;> cases h <;> cases hx
    exact hs e
  · refine ⟨_, _, exec_desForm a st s, fun t h => desResult_same _ _ _ _ _ h, ?_⟩
    intro e x h hx
    rcases desResult_cases s.params a st s with ⟨_, h1⟩ | ⟨_, e, _, h1⟩ |
      ⟨_, hd, _, ⟨_, h1⟩ | ⟨_, _, h1⟩ | ⟨_, _, _, h1⟩ | ⟨_, _, p, _, h1⟩⟩ <;> rw [h1] at h
    · cases h; cases hx
    · cases h; cases hx; exact hs e
    · cases h; cases hx
    · cases h; cases hx
    · cases h; cases hx
    · unfold desDeliver at h
      split at h
      · cases h
      · split at h <;> cases h; cases hx

/-- No step changes where the parameters come from, and every step answers a next state. -/
theorem step_next (s : State) : ∃ t, step s = .next t ∧ t.setting = s.setting := by
  rcases step_cases s with ⟨_, h⟩ | ⟨a, _, h⟩ | ⟨_, _, h⟩ | ⟨_, _, _, h⟩ | ⟨_, i, _, h⟩ | ⟨_, _, h⟩
  · exact ⟨_, h, rfl⟩
  · refine ⟨_, h, ?_⟩
    cases a with
    | read w o =>
      rcases hostRead_frame s.popTurn w o with ⟨r, n, h⟩ | ⟨_, h⟩ <;> simp [State.hostAccess, h]
    | write w o v =>
      rcases hostWrite_cases s.popTurn w o v with ⟨_, h⟩ | ⟨_, h⟩ | ⟨r, _, _, _, h⟩ | ⟨r, _, _, h⟩ |
        ⟨a, _, _, h⟩ | ⟨a, _, _, h⟩ <;> simp [State.hostAccess, h, setReg_frame]
  · exact ⟨_, h, rfl⟩
  · exact ⟨_, h, rfl⟩
  · rcases instr_cases i with rfl | rfl | ⟨x, st, rfl⟩
    · exact ⟨_, h, rfl⟩
    · rw [exec_ser] at h
      refine ⟨_, h, ?_⟩
      rcases serResult_cases s.popTurn.params s.popTurn with ⟨_, h1⟩ | ⟨_, _, h1⟩ | ⟨_, _, e, _, h1⟩ |
        ⟨_, _, hb, _, _, h1⟩ | ⟨_, _, hb, _, _, h1⟩ <;> rw [h1] <;> rfl
    · rw [exec_desForm] at h
      refine ⟨_, h, ?_⟩
      rcases desResult_cases s.popTurn.params x st s.popTurn with ⟨_, h1⟩ | ⟨_, e, _, h1⟩ |
        ⟨_, hd, _, ⟨_, h1⟩ | ⟨_, _, h1⟩ | ⟨_, _, _, h1⟩ | ⟨_, _, p, _, h1⟩⟩ <;> rw [h1] <;> try rfl
      unfold desDeliver
      split
      · rfl
      · split <;> rfl
  · exact ⟨_, h, rfl⟩

/-- A run of any core, one step off. -/
theorem core_run_succ (M : Host.Core) (s t : M.State) (k : Nat) (h : M.step s = .next t) :
    M.run (k + 1) s = M.run k t := by
  rw [Host.Core.run, h]

/-- A run of the model, one step off. -/
theorem core_run_of_step (s t : State) (k : Nat) (h : step s = .next t) :
    core.run (k + 1) s = core.run k t :=
  core_run_succ core s t k h

end Sys2Proof.Machine
end

