-- ==== Sys2Proof/Tests/Slice0.lean ====
section
/-! SUPPORT. The model's own tests. Expected values come from spec/95_test_vectors.md (the vector's
name stands at each test) or are worked out by hand from the rule cited. They run under the
reference parameters, `setting := .reference`, as the vectors do. -/

namespace Sys2Proof.Tests
open Sys2Proof.Machine

/-! ## WellFormed refuses an ill-formed term at each check -/

theorem test_wellFormed_refuses_reserved_bits : (Cmd32.mk 0x03#8 false false 1#22).wellFormed = false := by
  decide
theorem test_wellFormed_refuses_unknown_op : (Cmd32.mk 0x04#8 false false 0#22).wellFormed = false := by
  decide
theorem test_wellFormed_refuses_ser_with_option :
    (Cmd32.mk 0x02#8 true false 0#22).wellFormed = false := by decide
theorem test_wellFormed_accepts_des_with_options :
    (Cmd32.mk 0x03#8 true true 0#22).wellFormed = true := by decide

/-! ## Decode: words written out from R69 to R73 -/

theorem test_decode_size : decode 0b0000000000000000000000_0_0_00000001#32 = .ok .size := by decide
theorem test_decode_ser : decode 0b0000000000000000000000_0_0_00000010#32 = .ok .ser := by decide
theorem test_decode_des : decode 0b0000000000000000000000_0_0_00000011#32 = .ok .des := by decide
theorem test_decode_desA : decode 0b0000000000000000000000_0_1_00000011#32 = .ok .desA := by decide
theorem test_decode_desS : decode 0b0000000000000000000000_1_0_00000011#32 = .ok .desS := by decide
theorem test_decode_desAS : decode 0b0000000000000000000000_1_1_00000011#32 = .ok .desAS := by decide

/-- K7: the reserved words of the vector, each with the reason it is reserved. -/
theorem test_decode_reserved :
    decode 0x00000000 = .error .reservedOp ∧ decode 0x00000004 = .error .reservedOp ∧
    decode 0x000000FF = .error .reservedOp ∧ decode 0x00000101 = .error .reservedOption ∧
    decode 0x00000102 = .error .reservedOption ∧ decode 0x00000201 = .error .reservedOption ∧
    decode 0x00000403 = .error .reservedBits ∧ decode 0x80000001 = .error .reservedBits := by decide

/-- The opcode table's match values. -/
theorem test_decodeTableWord :
    [1, 2, 3, 0x103, 0x203, 0x303].map (decodeTableWord 32) =
      [some .size, some .ser, some .des, some .desA, some .desS, some .desAS] := by decide

theorem test_encode :
    [Instr.size, .ser, .des, .desA, .desS, .desAS].map encode =
      [1#32, 2#32, 3#32, 0x103#32, 0x203#32, 0x303#32] := by decide

/-! ## Commands -/

/-- The state a step ends in. -/
def stateOf : Host.Outcome State Fault Refusal → State
  | .next s => s
  | _ => State.reset

/-- The common fields F of spec/95_test_vectors.md, WIRE_PTR = 0x100. -/
def common : State :=
  { State.reset with
    setting := .reference, subtype := 5#5, senderSsrc := 0x01020304#32,
    mediaSsrc := 0x05060708#32, name := 0x54455354#32, nameLen := 4#32, wirePtr := 0x100#32 }

/-- F with data bytes at `a` and DATA_PTR, DATA_LEN describing them. -/
def withData (a : Nat) (bs : List Byte) : State :=
  { common with
    buf := Memory.store [] a bs, dataPtr := BitVec.ofNat 32 a,
    dataLen := BitVec.ofNat 32 bs.length }

/-- A DES input of a header and 12 fixed bytes H16 and `rest`, at 0x100, DATA_PTR = 0x200. -/
def withInput (header rest : List Byte) : State :=
  let input := header ++ [1, 2, 3, 4, 0x54, 0x45, 0x53, 0x54, 5, 6, 7, 8] ++ rest
  { State.reset with
    setting := .reference, wirePtr := 0x100#32, wireLen := BitVec.ofNat 32 input.length,
    dataPtr := 0x200#32, buf := Memory.store [] 0x100 input }

/-- The written bytes at `a` to `a + n - 1`. -/
def bytesAt (s : State) (a n : Nat) : List (Option Byte) := (List.range n).map fun i => s.buf.cell (a + i)

/-- SZ9 and SZ12: no cap, and the wrap of R97. -/
theorem test_size_above_cap_and_wrap :
    (stateOf (exec .size { common with dataLen := 65520#32 })).wireLen = 65536#32 ∧
    (stateOf (exec .size { common with dataLen := 0xFFFFFFFF#32 })).wireLen = 16#32 := by decide

/-- W18: the data region overlaps the wire region and is read before any byte is written. -/
theorem test_ser_overlap :
    let t := stateOf (exec .ser (withData 0x100 [1, 2, 3]))
    t.statusWord = 2#32 ∧ t.wireLen = 20#32 ∧
    bytesAt t 0x100 21 = ([0xA5, 0xCC, 0, 4, 1, 2, 3, 4, 0x54, 0x45, 0x53, 0x54, 5, 6, 7, 8, 1, 2, 3, 1].map some)
      ++ [none] := by decide

/-- W13, W12, W15: the priority of R136. -/
theorem test_ser_errors :
    (stateOf (exec .ser { common with dataLen := 65520#32, nameLen := 2#32 })).statusWord = 0x102#32 ∧
    (stateOf (exec .ser { common with dataLen := 3#32, nameLen := 0xFFFFFFFF#32 })).statusWord = 0x202#32 ∧
    (stateOf (exec .ser { common with dataLen := 3#32, dataPtr := 0x7FFFE#32 })).statusWord = 0x702#32 := by
  decide

/-- D12: the lax form accepts a differing interior pad byte and copies two data bytes. -/
theorem test_des_copies :
    let t := stateOf (exec .des (withInput [0xA5, 0xCC, 0, 4] [1, 2, 0, 2]))
    t.statusWord = 2#32 ∧ t.dataLen = 2#32 ∧ t.dataPtr = 0x200#32 ∧ t.mediaSsrc = 0x05060708#32 ∧
    t.name = 0x54455354#32 ∧ t.senderSsrc = 0x01020304#32 ∧ t.subtype = 5#5 ∧ t.nameLen = 4#32 ∧
    bytesAt t 0x200 3 = [some 1, some 2, none] := by decide

/-- D27, D26, D11 and D28: the priority of R137. -/
theorem test_des_errors :
    (stateOf (exec .des (withInput [0xA5, 0xCC, 0, 5] [1, 2, 3, 10]))).statusWord = 0x402#32 ∧
    (stateOf (exec .des (withInput [0x05, 0xCC, 0, 5] [1, 2, 3, 10]))).hdrErr = 2#32 ∧
    (stateOf (exec .des (withInput [0xA5, 0xCC, 0, 4] [9, 9, 9, 5]))).statusWord = 0x502#32 ∧
    (stateOf (exec .des { State.reset with setting := .reference })).statusWord = 0x602#32 := by decide

/-- D22: DES.A points DATA_PTR into the wire region, whatever it held. -/
theorem test_desA_aliases :
    let t := stateOf (exec .desA
      { withInput [0xA5, 0xCC, 0, 4] [1, 2, 3, 1] with dataPtr := 0x7FFFE#32 })
    t.statusWord = 2#32 ∧ t.dataPtr = 0x110#32 ∧ t.dataLen = 3#32 ∧ t.buf.length = 20 := by decide

/-- D13 and D14: every padding byte is checked. -/
theorem test_desS_checks_padding :
    (stateOf (exec .desS (withInput [0xA5, 0xCC, 0, 4] [1, 2, 0, 2]))).statusWord = 0x502#32 ∧
    (stateOf (exec .desS (withInput [0xA5, 0xCC, 0, 4] [1, 2, 2, 2]))).dataLen = 2#32 := by decide

/-- By hand from R120 and R123: both options at once. -/
theorem test_desAS_checks_and_aliases :
    (stateOf (exec .desAS (withInput [0xA5, 0xCC, 0, 4] [1, 2, 0, 2]))).statusWord = 0x502#32 ∧
    (stateOf (exec .desAS (withInput [0xA5, 0xCC, 0, 4] [1, 2, 2, 2]))).dataPtr = 0x110#32 := by decide

/-! ## Steps: the fetch and the host's accesses -/

/-- The first step after reset runs the word placed by withFetchWord: SIZE gives 16 (SZ1), SER finds
NAME_LEN = 0 (W20), a reserved word completes with BAD_COMMAND (K7). -/
theorem test_first_step_runs_the_placed_word :
    (stateOf (step (State.reset.withFetchWord 32 1))).wireLen = 16#32 ∧
    (stateOf (step (State.reset.withFetchWord 32 2))).statusWord = 0x202#32 ∧
    (stateOf (step (State.reset.withFetchWord 32 0x102))).statusWord = 0x802#32 := by decide

/-- One turn of the Host on a state. -/
def hostTurn (s : State) (a : Access) : State :=
  stateOf (step { s with schedule := [⟨false, .access a⟩] })

/-- A busy state: SIZE in flight. -/
def busySize : State := common.issue 1#32

/-- K3, K4, K6: OVR on a lost CMD write, and the W1C bits. -/
theorem test_cmd_and_status_writes :
    (hostTurn busySize (.write 32 0 2#32)).statusWord = 5#32 ∧
    (hostTurn { common with done := true, ovr := true, code := 5#4 } (.write 32 4 4#32)).statusWord = 0x502#32 ∧
    (hostTurn { common with done := true, ovr := true, code := 5#4 } (.write 32 4 0xFFFFFFFF#32)).statusWord
      = 0x500#32 := by decide

/-- M1, M2: big-endian 32-bit writes, byte reads. -/
theorem test_buf_window :
    let t := hostTurn common (.write 32 0x1000010 0x11223344#32)
    bytesAt t 0x10 4 = [some 0x11, some 0x22, some 0x33, some 0x44] ∧
    (hostTurn t (.read 8 0x1000012)).response = some (.byte 0x33) ∧
    (hostTurn t (.read 32 0x1000010)).response = some (.word 0x11223344) := by decide

/-- M3, M4, M5: illegal accesses. -/
theorem test_bus_errors :
    (hostTurn common (.read 32 0x1000002)).faults = ⟨true, false⟩ ∧
    (hostTurn common (.read 8 4)).response = some .busError ∧
    (hostTurn common (.write 16 0x1000000 0#32)).response = some .busError := by decide

/-- M6, M7, K13: reserved offsets read 0, SUBTYPE has five bits. -/
theorem test_register_reads :
    (hostTurn common (.read 32 0x40)).response = some (.word 0) ∧
    (hostTurn common (.read 32 0x2000)).response = some (.word 0) ∧
    (hostTurn (hostTurn common (.write 32 0x10 0xFFFFFFFF#32)) (.read 32 0x10)).response
      = some (.word 0x1F) := by decide

/-- M8, M10: the input-write hazard, and STATUS polled while busy. -/
theorem test_busy_hazard :
    (hostTurn busySize (.write 32 0x28 1#32)).faults = ⟨false, true⟩ ∧
    (hostTurn busySize (.read 32 4)).response = some (.word 1) := by decide

/-- Z1: reset abandons the command and clears the registers, whatever access comes with it. -/
theorem test_reset_turn :
    let t := stateOf (step { busySize with schedule := [⟨true, .access (.write 32 0x10 7#32)⟩] })
    t.statusWord = 0#32 ∧ t.subtype = 0#5 ∧ t.buf = [] := by decide

/-! ## Witnesses: for each obligation with hypotheses, a state and operands that meet them, clause by
clause, at the edges of the ranges -/

/-- The Host has the next turn on `s`, with one access. -/
def hostState (s : State) (a : Access) : State := { s with schedule := [⟨false, .access a⟩] }

/-- The header of the inputs below: flag as given, declared length `l`. -/
def inputHeader (flag : Bool) (l : BitVec 16) : Header := ⟨0xCC#8, l, flag, 5#5⟩

/-- D12: the pad byte is 2 and the byte before it is not. -/
def inputD12 : State := withInput [0xA5, 0xCC, 0, 4] [1, 2, 0, 2]
/-- D14: both padding bytes are 2. -/
def inputD14 : State := withInput [0xA5, 0xCC, 0, 4] [1, 2, 2, 2]
/-- D2: the flag is clear. -/
def inputD2 : State := withInput [0x85, 0xCC, 0, 4] [1, 2, 3, 4]
/-- D11: the pad byte is one above the bytes there are. -/
def inputD11 : State := withInput [0xA5, 0xCC, 0, 4] [9, 9, 9, 5]
/-- D9's kind: the pad byte is as many as the bytes there are. -/
def inputFullPad : State := withInput [0xA5, 0xCC, 0, 4] [4, 4, 4, 4]

theorem witness_DecodeAgreesWithEncode :
    (∀ i : Instr, i.wellFormed = true) ∧ (Cmd32.ofWord 0x303#32).wellFormed = true ∧
    (Cmd32.ofWord 0x103#32).wellFormed = true := ⟨fun i => by cases i <;> rfl, by decide, by decide⟩

theorem witness_DecodeByFieldValues :
    (0x400#32).toNat / 1024 ≠ 0 ∧ (0xFFFFFFFF#32).toNat / 1024 ≠ 0 ∧ (0x3FF#32).toNat / 1024 = 0 ∧
    (0x1#32).toNat / 256 % 4 = 0 ∧ (0x301#32).toNat / 256 % 4 ≠ 0 ∧
    (0x303#32).toNat % 256 = 3 ∧ (0x4#32).toNat % 256 ≠ 3 ∧ (0x0#32).toNat % 256 ≠ 1 := by decide

theorem witness_StepRunsTheDecodedCommand :
    busySize.completesNext ∧ decode busySize.cur = .ok .size :=
  ⟨⟨rfl, rfl, rfl⟩, rfl⟩

/-- K7. -/
theorem witness_ReservedWordCompletesBadCommand :
    decode 0x102#32 = .error .reservedOption ∧
    (hostState common (.write 32 0 0x102#32)).hostNext (.write 32 0 0x102#32) ∧ common.busy = false ∧
    (common.issue 0x102#32).completesNext ∧ (common.issue 0x102#32).cur = 0x102#32 :=
  ⟨rfl, rfl, rfl, ⟨rfl, rfl, rfl⟩, rfl⟩

theorem witness_CommandInFlightCompletes :
    (hostState busySize (.read 32 4)).busy = true ∧
    ∀ t ∈ (hostState busySize (.read 32 4)).schedule, t.reset = false := by decide

/-- SER with too much data, SER and DES with a Header Codec that refuses, and a reserved word, each in
flight with the Engine's turn next. -/
theorem witness_FailedCommandWritesOnlyStatus :
    ({ common with dataLen := 65520#32 }.issue 2#32).completesNext ∧
    (stateOf (step ({ common with dataLen := 65520#32 }.issue 2#32))).code = 1#4 ∧
    (stateOf (step ({ common with setting := .refusing }.issue 2#32))).code = 6#4 ∧
    (stateOf (step ({ common with setting := .refusing }.issue 0x303#32))).code = 6#4 ∧
    (stateOf (step (common.issue 0#32))).code = 8#4 :=
  ⟨⟨rfl, rfl, rfl⟩, by decide, by decide, by decide, by decide⟩

theorem witness_HdrErrHoldsTheCodecError :
    (stateOf (exec .ser { common with setting := .refusing })).hdrErr = 0xE1#32 ∧
    (stateOf (exec .des { State.reset with setting := .reference })).hdrErr = 1#32 ∧
    (stateOf (exec .size { common with hdrErr := 7#32 })).hdrErr = 7#32 := by decide

theorem witness_PadAndWireSize : 65516 % 4 = 0 ∧ 65517 % 4 = 1 ∧ 65518 % 4 = 2 ∧ 65519 % 4 = 3 := by
  decide

/-- SZ10 to SZ12: the edges of the ranges. -/
theorem witness_SizeWrapsAboveTwoToThe32 :
    [0xFFFFFFEC#32, 0xFFFFFFED, 0xFFFFFFF0, 0xFFFFFFF1, 0xFFFFFFF4, 0xFFFFFFF5, 0xFFFFFFF8,
      0xFFFFFFF9, 0xFFFFFFFC, 0xFFFFFFFD, 0xFFFFFFFF].map
        (fun n => (stateOf (exec .size { common with dataLen := n })).wireLen) =
      [0xFFFFFFFC#32, 0, 0, 4, 4, 8, 8, 12, 12, 16, 16] := by decide

theorem witness_SerChecksCapThenNameLength :
    65519 < ({ common with dataLen := 65520#32 } : State).dataLen.toNat ∧
    ({ common with dataLen := 65519#32, nameLen := 3#32 } : State).dataLen.toNat ≤ 65519 ∧
    ({ common with dataLen := 65519#32, nameLen := 3#32 } : State).nameLen ≠ 4#32 ∧
    common.nameLen = 4#32 := by decide

theorem witness_SerHeaderValue :
    ({ common with dataLen := 65519#32 } : State).dataLen.toNat ≤ 65519 ∧
    (serHeader Params.reference { common with dataLen := 65516#32 }).length = 16382#16 ∧
    (serHeader Params.reference { common with dataLen := 65517#32 }).length = 16383#16 ∧
    (serHeader Params.reference { common with dataLen := 0#32 }).length = 3#16 := by decide

theorem witness_SerReportsHeaderError :
    ({ common with setting := .refusing } : State).dataLen.toNat ≤ 65519 ∧
    ({ common with setting := .refusing } : State).nameLen = 4#32 ∧
    (∃ e, ({ common with setting := .refusing } : State).params.hc.ser
      (serHeader ({ common with setting := .refusing } : State).params
        { common with setting := .refusing }) = .error e) ∧
    (∃ hb, common.params.hc.ser (serHeader common.params common) = .ok hb) ∧
    (stateOf (exec .ser common)).code = 0#4 :=
  ⟨by decide, rfl, ⟨(0xE1#8 : BitVec 8), rfl⟩, ⟨_, rfl⟩, by decide⟩

/-- W14 and W15 at the edge: one byte beyond BUF_SIZE, in the wire region and in the data region. -/
theorem witness_SerReportsBufferFault :
    let s : State := { common with dataLen := 3#32, wirePtr := 0x7FFED#32 }
    let u : State := { common with dataLen := 3#32, dataPtr := 0x7FFFE#32 }
    (s.dataLen.toNat ≤ 65519 ∧ s.nameLen = 4#32 ∧
      (∃ hb, s.params.hc.ser (serHeader s.params s) = .ok hb) ∧
      s.params.bufSize < s.wirePtr.toNat + wireSize s.dataLen.toNat) ∧
    (u.dataLen.toNat ≤ 65519 ∧ u.nameLen = 4#32 ∧
      (∃ hb, u.params.hc.ser (serHeader u.params u) = .ok hb) ∧
      u.dataLen.toNat ≠ 0 ∧ u.params.bufSize < u.dataPtr.toNat + u.dataLen.toNat) :=
  ⟨⟨by decide, rfl, ⟨_, rfl⟩, by decide⟩, ⟨by decide, rfl, ⟨_, rfl⟩, by decide, by decide⟩⟩

/-- W18 (the regions overlap), W16 (no data, DATA_PTR far outside), and the largest packet, which ends
with BUF. -/
theorem witness_SerWritesThePacket :
    (∃ hb, (withData 0x100 [1, 2, 3]).SerInput hb) ∧
    (∃ hb, State.SerInput { common with dataPtr := 0xFFFFFFFF#32 } hb) ∧
    (∃ hb, State.SerInput
      { common with dataLen := 65519#32, wirePtr := 0x70000#32, dataPtr := 0x60000#32 } hb) :=
  ⟨⟨_, by decide, rfl, rfl, by decide, by decide⟩, ⟨_, by decide, rfl, rfl, by decide, by decide⟩,
    ⟨_, by decide, rfl, rfl, by decide, by decide⟩⟩

/-- W1 and W13: OK and an error. -/
theorem witness_SerFrame :
    (stateOf (exec .ser (withData 0x200 [1, 2, 3]))).code = 0#4 ∧
    (stateOf (exec .ser { common with dataLen := 65520#32, nameLen := 2#32 })).code = 1#4 ∧
    0xFF < common.wirePtr.toNat ∧ common.wirePtr.toNat + wireSize 0 ≤ 0x110 := by decide

/-- W1 for SerAndSizeAgree and WrittenWireLenIsAligned. -/
theorem witness_SerAndSizeAgree :
    (stateOf (exec .ser (withData 0x200 [1, 2, 3]))).code = 0#4 ∧
    (stateOf (exec .size (withData 0x200 [1, 2, 3]))).wireLen = 20#32 := by decide

/-- D20 at the edge: one byte beyond BUF_SIZE. -/
theorem witness_DesChecksInputBoundsFirst :
    let s : State := { inputD2 with wirePtr := 0x7FFED#32 }
    s.wireLen.toNat ≠ 0 ∧ s.params.bufSize < s.wirePtr.toNat + s.wireLen.toNat ∧ 19 < s.wireLen.toNat := by
  decide

/-- D26 and D24: a bad version, no bytes, and an input that ends with BUF. -/
theorem witness_DesReportsHeaderError :
    let s := withInput [0x05, 0xCC, 0, 5] [1, 2, 3, 10]
    let u : State := { State.reset with setting := .reference }
    let v : State := { inputD2 with wirePtr := 0x7FFEC#32 }
    (inBounds s.params s.wirePtr.toNat s.wireLen.toNat ∧ 4 ≤ s.wireLen.toNat ∧
      ∃ e, s.params.hc.parse s.wireBytes = .error e) ∧
    (inBounds u.params u.wirePtr.toNat u.wireLen.toNat ∧
      ∃ e, u.params.hc.parse u.wireBytes = .error e) ∧
    inBounds v.params v.wirePtr.toNat v.wireLen.toNat ∧
    inputD2.params.hc.parse inputD2.wireBytes = .ok (inputHeader false 4) :=
  ⟨⟨by decide, by decide, (2#8 : BitVec 8), rfl⟩, ⟨by decide, (1#8 : BitVec 8), rfl⟩, by decide, rfl⟩

/-- 262145 bytes at address 0 that begin with D2's header. -/
def inputTooLong : State :=
  { State.reset with
    setting := .reference, wireLen := 262145#32, buf := Memory.store [] 0 [0x85, 0xCC, 0, 4] }

/-- D5 and D6's kinds: 15 bytes, and 16 bytes that declare 20; 17 bytes, and one byte more than the
largest declared length. -/
theorem witness_DesChecksLengths :
    let s : State := { inputD2 with wireLen := 15#32 }
    let u : State := { inputD2 with wireLen := 16#32 }
    (inBounds s.params s.wirePtr.toNat s.wireLen.toNat ∧
      s.params.hc.parse s.wireBytes = .ok (inputHeader false 4) ∧ s.wireLen.toNat < 16) ∧
    (inBounds u.params u.wirePtr.toNat u.wireLen.toNat ∧
      u.params.hc.parse u.wireBytes = .ok (inputHeader false 4) ∧ 16 ≤ u.wireLen.toNat ∧
      ((inputHeader false 4).length.toNat + 1) * 4 ≠ u.wireLen.toNat) ∧
    (16 ≤ ({ inputD2 with wireLen := 17#32 } : State).wireLen.toNat ∧
      ({ inputD2 with wireLen := 17#32 } : State).wireLen.toNat % 4 ≠ 0) ∧
    (inBounds inputTooLong.params inputTooLong.wirePtr.toNat inputTooLong.wireLen.toNat ∧
      inputTooLong.params.hc.parse inputTooLong.wireBytes = .ok (inputHeader false 4) ∧
      262144 < inputTooLong.wireLen.toNat) := by
  refine ⟨⟨by decide, rfl, by decide⟩, ⟨by decide, rfl, by decide, by decide⟩, by decide, by decide, ?_,
    by decide⟩
  rw [inputTooLong.params.hc.locality _ (by rw [State.wireBytes_length]; decide)]
  unfold State.wireBytes Memory.readRegion
  rw [← List.map_take, List.take_range]
  rfl

/-- D11, one byte too many; and as many as there are. -/
theorem witness_DesBoundsThePadByte :
    (inBounds inputD11.params inputD11.wirePtr.toNat inputD11.wireLen.toNat ∧
      inputD11.params.hc.parse inputD11.wireBytes = .ok (inputHeader true 4) ∧
      16 ≤ inputD11.wireLen.toNat ∧ ((inputHeader true 4).length.toNat + 1) * 4 = inputD11.wireLen.toNat ∧
      inputD11.wireLen.toNat - 16 < (inputD11.wireBytes.getD (inputD11.wireLen.toNat - 1) 0).toNat) ∧
    (inBounds inputFullPad.params inputFullPad.wirePtr.toNat inputFullPad.wireLen.toNat ∧
      inputFullPad.params.hc.parse inputFullPad.wireBytes = .ok (inputHeader true 4) ∧
      (inputFullPad.wireBytes.getD (inputFullPad.wireLen.toNat - 1) 0).toNat =
        inputFullPad.wireLen.toNat - 16) ∧
    (inputD2.params.hc.parse inputD2.wireBytes = .ok (inputHeader false 4) ∧
      (inputHeader false 4).paddingFlag = false) :=
  ⟨⟨by decide, rfl, by decide, by decide, by decide⟩, ⟨by decide, rfl, by decide⟩, ⟨rfl, rfl⟩⟩

/-- An input DES accepts in the lax form, with its pad (D12), in both forms (D14), and with the flag
clear (D2). -/
theorem input_D12 : inputD12.DesInput false (inputHeader true 4) 2 :=
  ⟨by decide, rfl, by decide, by decide, by
    refine ⟨by decide, by decide, fun h => ?_⟩; cases h⟩
theorem input_D14 : inputD14.DesInput true (inputHeader true 4) 2 :=
  ⟨by decide, rfl, by decide, by decide, by
    refine ⟨by decide, by decide, fun _ i h1 h2 => ?_⟩
    have h1 : 18 ≤ i := h1
    have h2 : i < 20 := h2
    have : i = 18 ∨ i = 19 := by omega
    rcases this with rfl | rfl <;> decide⟩
theorem input_D2 (st : Bool) : inputD2.DesInput st (inputHeader false 4) 0 :=
  ⟨by decide, rfl, by decide, by decide, rfl⟩

theorem witness_StrictPaddingChecksEveryByte :
    (inputD12.DesInput false (inputHeader true 4) 2 ∧ (inputHeader true 4).paddingFlag = true ∧
      ∃ i, inputD12.wireLen.toNat - 2 ≤ i ∧ i < inputD12.wireLen.toNat ∧
        (inputD12.wireBytes.getD i 0).toNat ≠ 2) ∧
    (inputD14.DesInput true (inputHeader true 4) 2) ∧
    (inputD2.DesInput false (inputHeader false 4) 0 ∧ (inputHeader false 4).paddingFlag = false) :=
  ⟨⟨input_D12, rfl, 18, by decide, by decide, by decide⟩, input_D14, input_D2 false, rfl⟩

/-- D12 with S = 0, D14 with S = 1, a destination one byte too long (D21), and one that ends with BUF. -/
theorem witness_DesCopiesThePacket :
    (inputD12.DesInput false (inputHeader true 4) 2 ∧
      inBounds inputD12.params inputD12.dataPtr.toNat (inputD12.wireLen.toNat - 16 - 2)) ∧
    (inputD14.DesInput true (inputHeader true 4) 2 ∧
      inBounds inputD14.params inputD14.dataPtr.toNat (inputD14.wireLen.toNat - 16 - 2)) ∧
    (State.DesInput { inputD2 with dataPtr := 0x7FFFD#32 } false (inputHeader false 4) 0 ∧
      inputD2.wireLen.toNat - 16 - 0 ≠ 0 ∧
      inputD2.params.bufSize < 0x7FFFD + (inputD2.wireLen.toNat - 16 - 0)) ∧
    inBounds inputD2.params 0x7FFFC (inputD2.wireLen.toNat - 16 - 0) :=
  ⟨⟨input_D12, by decide⟩, ⟨input_D14, by decide⟩,
    ⟨⟨by decide, rfl, by decide, by decide, rfl⟩, by decide, by decide⟩, by decide⟩

theorem witness_DesAliasesThePacket :
    inputD12.DesInput false (inputHeader true 4) 2 ∧ inputD14.DesInput true (inputHeader true 4) 2 :=
  ⟨input_D12, input_D14⟩

theorem witness_DesLoadsTheFields :
    inputD12.DesInput false (inputHeader true 4) 2 ∧ inputD14.DesInput true (inputHeader true 4) 2 ∧
    inBounds inputD12.params inputD12.dataPtr.toNat (inputD12.wireLen.toNat - 16 - 2) :=
  ⟨input_D12, input_D14, by decide⟩

theorem witness_DesFrame :
    (stateOf (exec .des inputD12)).code = 0#4 ∧ (stateOf (exec .desS inputD12)).code = 5#4 ∧
    0x1FF < inputD12.dataPtr.toNat ∧
    inputD12.dataPtr.toNat + (stateOf (exec .des inputD12)).dataLen.toNat ≤ 0x202 := by decide

theorem witness_AcceptedInputBounds :
    (stateOf (exec .des inputFullPad)).code = 0#4 ∧ (stateOf (exec .desAS inputD14)).code = 0#4 := by
  decide

/-- Each of the five outcomes is some input's (D20, D24, 15 bytes, 16 that declare 20, D11, D21, D2). -/
theorem witness_DesErrorPriority :
    [exec .des { inputD2 with wirePtr := 0x7FFED#32 }, exec .des { inputD2 with wireLen := 3#32 },
      exec .des { inputD2 with wireLen := 15#32 }, exec .des { inputD2 with wireLen := 16#32 },
      exec .des inputD11, exec .des { inputD2 with dataPtr := 0x7FFFD#32 }, exec .des inputD2].map
        (fun o => (stateOf o).code) = [7#4, 6#4, 3#4, 4#4, 5#4, 7#4, 0#4] := by decide

/-- D24 and D25's edges: 3 bytes, 4 bytes, 15 bytes, and 15 bytes with a bad version. -/
theorem witness_ShortInputOutcome :
    inBounds inputD2.params inputD2.wirePtr.toNat 15 ∧
    [exec .des { inputD2 with wireLen := 3#32 }, exec .des { inputD2 with wireLen := 4#32 },
      exec .des { inputD2 with wireLen := 15#32 },
      exec .des { withInput [0x05, 0xCC, 0, 5] [] with wireLen := 15#32 }].map
        (fun o => (stateOf o).statusWord) = [0x602#32, 0x302, 0x302, 0x602] := by decide

/-- W1 with u = t: DES runs on the state SER left. -/
theorem witness_SerThenDesGivesThePacketBack :
    let s := withData 0x200 [1, 2, 3]
    let t := stateOf (exec .ser s)
    (∃ hb, s.SerInput hb) ∧ exec .ser s = .next t ∧ t.setting = s.setting ∧
    inBounds t.params t.dataPtr.toNat s.dataLen.toNat :=
  ⟨⟨_, by decide, rfl, rfl, by decide, by decide⟩, rfl, rfl, by decide⟩

theorem witness_CmdWriteIssuesWhenIdle :
    (hostState common (.write 32 0 2#32)).hostNext (.write 32 0x000 2#32) ∧
    (hostState common (.write 32 0 2#32)).busy = false ∧
    (hostState busySize (.write 32 0 2#32)).hostNext (.write 32 0x000 2#32) ∧
    (hostState busySize (.write 32 0 2#32)).busy = true := ⟨rfl, rfl, rfl, rfl⟩

/-- For StatusReadLayout, StatusWriteClearsOnes and CtrlWriteSetsInterruptEnable. -/
theorem witness_StatusAndCtrlAccesses :
    (hostState busySize (.read 32 4)).hostNext (.read 32 0x004) ∧
    (hostState busySize (.write 32 4 6#32)).hostNext (.write 32 0x004 6#32) ∧
    (hostState busySize (.write 32 8 1#32)).hostNext (.write 32 0x008 1#32) ∧
    (hostState busySize (.read 32 8)).hostNext (.read 32 0x008) := ⟨rfl, rfl, rfl, rfl⟩

/-- A write of the first field register; reads of the last one and of HDR_ERR with BUSY = 0, and of CMD
with BUSY = 1. -/
theorem witness_FieldRegisterReadsBack :
    Reg.subtype.isField = true ∧ Reg.wireLen.isField = true ∧
    (hostState common (.write 32 0x10 0xFF#32)).hostNext
      (.write 32 (BitVec.ofNat 25 Reg.subtype.offset) 0xFF#32) ∧
    (hostState common (.read 32 0x30)).hostNext (.read 32 (BitVec.ofNat 25 Reg.wireLen.offset)) ∧
    (hostState common (.read 32 0xC)).hostNext (.read 32 (BitVec.ofNat 25 Reg.hdrErr.offset)) ∧
    (hostState busySize (.read 32 0)).hostNext (.read 32 (BitVec.ofNat 25 Reg.cmd.offset)) ∧
    common.busy = false := ⟨rfl, rfl, rfl, rfl, rfl, rfl, rfl⟩

/-- The first and the last byte, and the last word, of BUF. -/
theorem witness_BufAccess :
    (0 < common.params.bufSize ∧ (0x1000000 : Offset).toNat = 0x01000000 + 0) ∧
    (0x7FFFF < common.params.bufSize ∧ (0x107FFFF : Offset).toNat = 0x01000000 + 0x7FFFF) ∧
    (0x7FFFC < common.params.bufSize ∧ 0x7FFFC % 4 = 0 ∧
      (0x107FFFC : Offset).toNat = 0x01000000 + 0x7FFFC) ∧
    (hostState common (.read 8 0x107FFFF)).hostNext (.read 8 0x107FFFF) ∧
    (hostState common (.write 32 0x107FFFC 1#32)).hostNext (.write 32 0x107FFFC 1#32) ∧
    common.buf.cell 0x7FFFF = none ∧ common.busy = false :=
  ⟨by decide, by decide, by decide, rfl, rfl, rfl, rfl⟩

/-- The edges of the reserved ranges: 0x034 and 0xFFC by words, 0x1000 by bytes, and the first byte
after BUF. -/
theorem witness_ReservedOffsetsReadZero :
    ((0x34 : Offset).toNat % 4 = 0 ∧ 0x034 ≤ (0x34 : Offset).toNat ∧ (0xFFC : Offset).toNat < 0x01000000) ∧
    (0x1000 ≤ (0x1000 : Offset).toNat ∧ (0xFFFFFF : Offset).toNat < 0x01000000) ∧
    0x01000000 + common.params.bufSize ≤ (0x1080000 : Offset).toNat ∧
    (hostState common (.read 8 0x1080000)).hostNext (.read 8 0x1080000) ∧
    (hostState common (.write 32 0x34 1#32)).hostNext (.write 32 0x34 1#32) ∧
    (hostState common (.read 8 0x34)).hostNext (.read 8 0x34) ∧ (0xFFF : Offset).toNat < 0x1000 :=
  ⟨by decide, by decide, by decide, rfl, rfl, rfl, by decide⟩

/-- A 16-bit access, an unaligned word at the edge of BUF, and a byte at the end of register space. -/
theorem witness_IllegalAccessIsBusError :
    (16 ≠ 8 ∧ 16 ≠ 32) ∧ (0x1000002 : Offset).toNat % 4 ≠ 0 ∧ (0xFFF : Offset).toNat < 0x1000 ∧
    (hostState common (.read 16 0x1000000)).hostNext (.read 16 0x1000000) ∧
    (hostState common (.read 32 0x1000002)).hostNext (.read 32 0x1000002) ∧
    (hostState common (.write 8 0xFFF 0#32)).hostNext (.write 8 0xFFF 0#32) :=
  ⟨by decide, by decide, by decide, rfl, rfl, rfl⟩

/-- A word read while busy, a byte read at the first legal offset, and an illegal read. -/
theorem witness_HostReadsHaveNoSideEffect :
    (hostState busySize (.read 32 0xC)).hostNext (.read 32 0xC) ∧ (0xC : Offset).toNat % 4 = 0 ∧
    (hostState common (.read 8 0x1000)).hostNext (.read 8 0x1000) ∧
    0x1000 ≤ (0x1000 : Offset).toNat ∧
    (hostState common (.read 8 0xFFF)).hostNext (.read 8 0xFFF) :=
  ⟨rfl, by decide, rfl, by decide, rfl⟩

/-- M8: the first and the last field register, and the first and the last byte of BUF. -/
theorem witness_BusyInputWriteIsHazard :
    busySize.busy = true ∧ ((0x10 : Offset).toNat % 4 = 0 ∧ 0x010 ≤ (0x10 : Offset).toNat) ∧
    ((0x30 : Offset).toNat % 4 = 0 ∧ (0x30 : Offset).toNat ≤ 0x030) ∧
    (0x107FFFF : Offset).toNat < 0x01000000 + busySize.params.bufSize ∧
    (hostState busySize (.write 32 0x10 1#32)).hostNext (.write 32 0x10 1#32) ∧
    (hostState busySize (.write 8 0x107FFFF 1#32)).hostNext (.write 8 0x107FFFF 1#32) :=
  ⟨rfl, by decide, by decide, by decide, rfl, rfl⟩

/-- M9: HDR_ERR, the last field register, and BUF. -/
theorem witness_BusyResultReadIsDraw :
    busySize.busy = true ∧ ((0xC : Offset).toNat % 4 = 0 ∧ 0x00C ≤ (0xC : Offset).toNat) ∧
    (0x30 : Offset).toNat ≤ 0x030 ∧ 0x1000 ≤ (0x1000000 : Offset).toNat ∧
    (hostState busySize (.read 32 0xC)).hostNext (.read 32 0xC) ∧
    (hostState busySize (.read 8 0x1000000)).hostNext (.read 8 0x1000000) :=
  ⟨rfl, by decide, by decide, by decide, rfl, rfl⟩

theorem witness_InterruptLine :
    (hostState common (.write 32 0 2#32)).hostNext (.write 32 0x000 2#32) ∧
    (hostState { common with done := true, ie := true } (.write 32 4 2#32)).hostNext
      (.write 32 0x004 2#32) ∧ (2#32).getLsbD 1 = true ∧
    (hostState { common with done := true, ie := true } (.write 32 8 0#32)).hostNext
      (.write 32 0x008 0#32) ∧ (0#32).getLsbD 0 = false ∧
    ({ common with done := true, ie := true } : State).irq = true :=
  ⟨rfl, rfl, by decide, rfl, by decide, rfl⟩

theorem witness_ResetTurnClearsTheBlock :
    ({ busySize with schedule := [⟨true, .engine⟩] } : State).nextTurn.reset = true := rfl

theorem witness_FaultsAreNeverCleared :
    (hostTurn { common with faults := ⟨true, true⟩ } (.read 32 4)).faults = ⟨true, true⟩ := by decide

/-- A rise and a fall of BUSY and of OVR, and a change of CODE. -/
theorem witness_StatusChanges :
    (hostTurn common (.write 32 0 2#32)).busy = true ∧ (stateOf (step busySize)).busy = false ∧
    (hostTurn busySize (.write 32 0 2#32)).ovr = true ∧
    (hostTurn { common with ovr := true } (.write 32 4 4#32)).ovr = false ∧
    (stateOf (step (common.issue 0x102#32))).code ≠ common.code := by decide

/-- A rise of DONE, its two falls by the Host, a change of HDR_ERR at a completion, and a write to
HDR_ERR. -/
theorem witness_DoneAndHdrErrChangeOnlyByTheirRules :
    (stateOf (step busySize)).done = true ∧
    (hostTurn { common with done := true } (.write 32 0 2#32)).done = false ∧
    (hostTurn { common with done := true } (.write 32 4 2#32)).done = false ∧
    (stateOf (step ({ common with setting := .refusing }.issue 2#32))).hdrErr ≠ common.hdrErr ∧
    (hostState common (.write 32 0xC 1#32)).hostNext (.write 32 0x00C 1#32) :=
  ⟨by decide, by decide, by decide, by decide, rfl⟩

/-- A state with a command in flight, a byte written and a hazard mark has the invariant. -/
theorem witness_EveryStepKeepsTheInvariant :
    ({ busySize with
        buf := [(0x7FFFF, 1#8)], code := 8#4, hdrErr := 0xFF#32, tainted := true,
        faults := ⟨false, true⟩ } : State).Inv :=
  ⟨by decide, by decide, by decide, by decide, by decide, by decide⟩

end Sys2Proof.Tests
end

namespace Sys2Proof.Machine

/-- The parameters are a function of `setting` alone (R20; log entry 5). -/
theorem State.params_of_setting {s t : State} (h : t.setting = s.setting) :
    t.params = s.params := by
  rw [State.params, State.params, h]

/-- Settles O7: `step_next` gives the next state and that it keeps `setting`, of which the parameters
are a function. -/
theorem everyStepAnswersNext : Obligations.EveryStepAnswersNext := by
  intro s
  obtain ⟨t, hstep, hsetting⟩ := step_next s
  exact ⟨t, hstep, State.params_of_setting hsetting⟩

end Sys2Proof.Machine

/-! # The state and its registers (spec/10_state.md)

One inversion lemma for the step (`step_inv`), one for what it does to STATUS and HDR_ERR
(`step_status`), and one lemma per operation for the invariant; the statements of 10_state.md follow
from these. -/

namespace Sys2Proof.Machine

/-! ## What a completion does -/

/-- What every completion from `s` to `t` does, of whatever command and with or without a hazard mark
(R133, R135): it reports BUSY = 0, DONE = 1 and one of the nine codes, and it keeps OVR, the fault
record, the setting, HDR_ERR's width, and BUF canonical and inside its bounds. -/
structure State.CompletesTo (s t : State) : Prop where
  busy      : t.busy = false
  done      : t.done = true
  tainted   : t.tainted = false
  ovr       : t.ovr = s.ovr
  faults    : t.faults = s.faults
  setting   : t.setting = s.setting
  codeNamed : t.code ≤ 8#4
  hdrErr    : t.hdrErr = s.hdrErr ∨ t.hdrErr.toNat < 2 ^ s.params.hdrErrW
  buf       : s.buf.wf → s.buf.inBuf s.params.bufSize → t.buf.wf ∧ t.buf.inBuf s.params.bufSize

/-- The completion step on a result that leaves `SameBlock` alone, or on an error whose Header Codec
value has HDR_ERR_W bits. -/
theorem State.complete_completesTo (s : State) (n : Nat) (r : Except Raise State)
    (hok : ∀ t, r = .ok t → s.SameBlock s.params t)
    (herr : ∀ e x, r = .error e → e.hdrErr = some x → x.toNat < 2 ^ s.params.hdrErrW) :
    s.CompletesTo (s.complete n r) := by
  cases r with
  | ok t =>
    have h := hok t rfl
    exact ⟨rfl, rfl, rfl, h.ovr, h.faults, h.setting, StatusCode.bits_le _, .inl h.hdrErr, h.buf⟩
  | error e =>
    refine ⟨rfl, rfl, rfl, rfl, rfl, rfl, StatusCode.bits_le _, ?_, fun hwf hin => ⟨hwf, hin⟩⟩
    obtain ⟨c, _ | x⟩ := e
    · exact .inl rfl
    · exact .inr (herr _ x rfl rfl)

/-- A reserved word's completion (R74). -/
theorem State.completeBad_completesTo (s : State) : s.CompletesTo s.completeBad :=
  s.complete_completesTo 0 _ (fun _ h => nomatch h) (fun _ _ h hx => by cases h; cases hx)

/-- The free code of a completion under a hazard mark is one of the nine (R131). -/
theorem ofNat_mod_nine_le (n : Nat) : BitVec.ofNat 4 (n % 9) ≤ 8#4 := by
  rw [BitVec.le_def, BitVec.toNat_ofNat, BitVec.toNat_ofNat]
  omega

/-- A value of `w` bits stays below `2 ^ w` when it is zero-extended to a register. -/
theorem toNat_setWidth_32_lt {w : Nat} (e : BitVec w) : (e.setWidth 32).toNat < 2 ^ w := by
  rw [BitVec.toNat_setWidth]
  exact Nat.lt_of_le_of_lt (Nat.mod_le _ _) e.isLt

/-- The completion of a command that a hazard write hit (R158, log entry 4). -/
theorem State.completeTainted_completesTo (s : State) : s.CompletesTo s.completeTainted where
  busy      := rfl
  done      := rfl
  tainted   := rfl
  ovr       := rfl
  faults    := rfl
  setting   := rfl
  codeNamed := ofNat_mod_nine_le _
  hdrErr    := .inr (toNat_setWidth_32_lt _)
  buf       := fun _ _ => ⟨List.Pairwise.nil, fun _ hx => nomatch hx⟩

/-! ## What a step does -/

/-- The four kinds of step: a reset turn, a host access, the idle Engine's turn and a completion. -/
theorem step_inv {s t : State} (h : step s = .next t) :
    (s.nextTurn.reset = true ∧ t = s.popTurn.resetBlock) ∨
    (∃ a, s.hostNext a ∧ t = s.popTurn.hostAccess a) ∨
    (s.busy = false ∧ t = s.popTurn) ∨
    (s.nextTurn = ⟨false, .engine⟩ ∧ s.busy = true ∧ s.popTurn.CompletesTo t) := by
  rcases step_cases s with ⟨hr, hs⟩ | ⟨a, ha, hs⟩ | ⟨_, hb, hs⟩ | ⟨he, hb, _, hs⟩ |
    ⟨⟨he, hb, _⟩, i, _, hs⟩ | ⟨⟨he, hb, _⟩, _, hs⟩ <;> rw [hs] at h
  case inr.inr.inr.inr.inl =>
    obtain ⟨n, r, hx, hok, herr⟩ := exec_result i s.popTurn
    rw [hx] at h
    cases h
    exact .inr (.inr (.inr ⟨he, hb, s.popTurn.complete_completesTo n r hok herr⟩))
  all_goals cases h
  · exact .inl ⟨hr, rfl⟩
  · exact .inr (.inl ⟨a, ha, rfl⟩)
  · exact .inr (.inr (.inl ⟨hb, rfl⟩))
  · exact .inr (.inr (.inr ⟨he, hb, s.popTurn.completeTainted_completesTo⟩))
  · exact .inr (.inr (.inr ⟨he, hb, s.popTurn.completeBad_completesTo⟩))

/-- STATUS and HDR_ERR are the same in `s` and `t`. -/
structure State.SameStatus (s t : State) : Prop where
  busy   : t.busy = s.busy
  done   : t.done = s.done
  ovr    : t.ovr = s.ovr
  code   : t.code = s.code
  hdrErr : t.hdrErr = s.hdrErr

/-- What a step does to STATUS and HDR_ERR: only a reset, a completion, a CMD write and a STATUS write
touch them (R34 to R38, R40). -/
theorem step_status {s t : State} (h : step s = .next t) :
    (s.nextTurn.reset = true ∧ t = s.popTurn.resetBlock) ∨
    (s.nextTurn = ⟨false, .engine⟩ ∧ s.busy = true ∧ s.popTurn.CompletesTo t) ∨
    (∃ w, s.hostNext (.write 32 0x000 w) ∧ s.busy = false ∧
      t = (s.popTurn.issue w).respond .written) ∨
    (∃ w, s.hostNext (.write 32 0x000 w) ∧ s.busy = true ∧
      t = { s.popTurn with ovr := true }.respond .written) ∨
    (∃ v, s.hostNext (.write 32 0x004 v) ∧ t = (s.popTurn.ackStatus v).respond .written) ∨
    s.SameStatus t := by
  rcases step_inv h with hr | ⟨a, ha, rfl⟩ | ⟨_, rfl⟩ | hc
  · exact .inl hr
  · rcases hostAccess_status s.popTurn a with ⟨w, rfl, hb, h⟩ | ⟨w, rfl, hb, h⟩ | ⟨v, rfl, h⟩ |
      ⟨hb, hd, ho, hc, he⟩
    · exact .inr (.inr (.inl ⟨w, ha, hb, h⟩))
    · exact .inr (.inr (.inr (.inl ⟨w, ha, hb, h⟩)))
    · exact .inr (.inr (.inr (.inr (.inl ⟨v, ha, h⟩))))
    · exact .inr (.inr (.inr (.inr (.inr ⟨hb, hd, ho, hc, he⟩))))
  · exact .inr (.inr (.inr (.inr (.inr ⟨rfl, rfl, rfl, rfl, rfl⟩))))
  · exact .inr (.inl hc)

/-- A host access at most adds one fault to the record (R43, R53, R158). -/
theorem hostAccess_faults (s : State) (a : Access) :
    (s.hostAccess a).faults = s.faults ∨
    (s.hostAccess a).faults = { s.faults with hostBusError := true } ∨
    (s.hostAccess a).faults = { s.faults with hazardWrite := true } := by
  cases a with
  | read w o =>
    rcases hostRead_frame s w o with ⟨r, n, h⟩ | ⟨_, h⟩ <;> rw [State.hostAccess, h]
    · exact .inl rfl
    · exact .inr (.inl rfl)
  | write w o v =>
    rcases hostWrite_cases s w o v with ⟨_, h⟩ | ⟨_, h⟩ | ⟨r, _, _, _, h⟩ | ⟨r, _, _, h⟩ |
      ⟨b, _, _, h⟩ | ⟨b, _, _, h⟩ <;> rw [State.hostAccess, h]
    · exact .inr (.inl rfl)
    · exact .inl rfl
    · exact .inr (.inr rfl)
    · obtain ⟨_, _, _, hf, _⟩ := setReg_frame s v r
      exact .inl hf
    · exact .inr (.inr rfl)
    · exact .inl rfl

/-! ## The invariant, operation by operation -/

theorem State.Inv.popTurn {s : State} (h : s.Inv) : s.popTurn.Inv :=
  ⟨h.bufCanonical, h.bufBounded, h.codeNamed, h.hdrErrWidth, h.oneOfBusyDone, h.taintedBusy⟩

theorem State.Inv.respond {s : State} (h : s.Inv) (r : Response) : (s.respond r).Inv :=
  ⟨h.bufCanonical, h.bufBounded, h.codeNamed, h.hdrErrWidth, h.oneOfBusyDone, h.taintedBusy⟩

theorem State.Inv.busError {s : State} (h : s.Inv) : s.busError.Inv :=
  ⟨h.bufCanonical, h.bufBounded, h.codeNamed, h.hdrErrWidth, h.oneOfBusyDone, h.taintedBusy⟩

/-- A hazard write hits a command in flight and is recorded, which is what its mark needs (R158). -/
theorem State.Inv.hazard {s : State} (h : s.Inv) (hb : s.busy = true) : s.hazard.Inv :=
  ⟨h.bufCanonical, h.bufBounded, h.codeNamed, h.hdrErrWidth, h.oneOfBusyDone, fun _ => ⟨hb, rfl⟩⟩

/-- The issue step clears DONE; with BUSY = 0 before it there is no mark to keep (R132). -/
theorem State.Inv.writeCmd {s : State} (h : s.Inv) (w : Word) : (s.writeCmd w).Inv := by
  by_cases hb : s.busy = true
  · rw [State.writeCmd, if_pos hb]
    exact ⟨h.bufCanonical, h.bufBounded, h.codeNamed, h.hdrErrWidth, h.oneOfBusyDone, h.taintedBusy⟩
  · rw [State.writeCmd, if_neg hb]
    exact ⟨h.bufCanonical, h.bufBounded, h.codeNamed, h.hdrErrWidth, by simp,
      fun ht => absurd (h.taintedBusy ht).1 hb⟩

theorem State.Inv.ackStatus {s : State} (h : s.Inv) (v : Word) : (s.ackStatus v).Inv := by
  refine ⟨h.bufCanonical, h.bufBounded, h.codeNamed, h.hdrErrWidth, fun ⟨hb, hd⟩ => ?_,
    h.taintedBusy⟩
  rw [State.ackStatus_done, Bool.and_eq_true] at hd
  exact h.oneOfBusyDone ⟨hb, hd.1⟩

theorem State.Inv.setReg {s : State} (h : s.Inv) (v : Word) (r : Reg) : (s.setReg v r).Inv := by
  cases r
  case cmd => exact h.writeCmd v
  case status => exact h.ackStatus v
  all_goals exact ⟨h.bufCanonical, h.bufBounded, h.codeNamed, h.hdrErrWidth, h.oneOfBusyDone,
    h.taintedBusy⟩

/-- The bytes of an access that reaches BUF lie inside it (R50, R51). -/
theorem storedBytes_bounded {P : Params} {w o a : Nat} (v : Word) (h : target P w o = .buf a) :
    a + (storedBytes w v).length ≤ P.bufSize := by
  obtain ⟨ha, rfl | ⟨rfl, _, hw⟩⟩ := target_buf_bounds P w o a h
  · exact ha
  · exact hw

theorem State.Inv.storeBuf {s : State} (h : s.Inv) (a : Nat) (bs : List Byte)
    (hin : a + bs.length ≤ s.params.bufSize) : State.Inv { s with buf := s.buf.store a bs } :=
  ⟨Memory.store_wf _ _ _ h.bufCanonical, Memory.store_inBuf _ _ _ _ h.bufBounded (.inr hin),
    h.codeNamed, h.hdrErrWidth, h.oneOfBusyDone, h.taintedBusy⟩

theorem State.Inv.hostAccess {s : State} (h : s.Inv) (a : Access) : (s.hostAccess a).Inv := by
  cases a with
  | read w o =>
    rcases hostRead_frame s w o with ⟨r, n, hs⟩ | ⟨_, hs⟩ <;> rw [State.hostAccess, hs]
    · exact ⟨h.bufCanonical, h.bufBounded, h.codeNamed, h.hdrErrWidth, h.oneOfBusyDone,
        h.taintedBusy⟩
    · exact h.busError
  | write w o v =>
    rcases hostWrite_cases s w o v with ⟨_, hs⟩ | ⟨_, hs⟩ | ⟨r, _, hb, _, hs⟩ | ⟨r, _, _, hs⟩ |
      ⟨b, _, hb, hs⟩ | ⟨b, ht, _, hs⟩ <;> rw [State.hostAccess, hs]
    · exact h.busError
    · exact h.respond _
    · exact h.hazard hb
    · exact (h.setReg v r).respond _
    · exact h.hazard hb
    · exact (h.storeBuf b _ (storedBytes_bounded v ht)).respond _

/-- After a reset the invariant holds, whatever the state before it. -/
theorem State.resetBlock_inv (s : State) : s.resetBlock.Inv :=
  ⟨List.Pairwise.nil, fun _ hx => (nomatch hx), by simp, by simp, by simp, by simp⟩

theorem State.Inv.completesTo {s t : State} (h : s.Inv) (hc : s.CompletesTo t) : t.Inv := by
  have hP : t.params = s.params := State.params_of_setting hc.setting
  obtain ⟨hwf, hin⟩ := hc.buf h.bufCanonical h.bufBounded
  refine ⟨hwf, hP ▸ hin, hc.codeNamed, ?_, by simp [hc.busy], by simp [hc.tainted]⟩
  rw [hP]
  rcases hc.hdrErr with he | he
  · rw [he]; exact h.hdrErrWidth
  · exact he

/-- Settles O59: each of the four kinds of step keeps the invariant. -/
theorem everyStepKeepsTheInvariant : Obligations.EveryStepKeepsTheInvariant := by
  intro s t hs h
  rcases step_inv h with ⟨_, rfl⟩ | ⟨a, _, rfl⟩ | ⟨_, rfl⟩ | ⟨_, _, hc⟩
  · exact State.resetBlock_inv _
  · exact hs.popTurn.hostAccess a
  · exact hs.popTurn
  · exact hs.popTurn.completesTo hc

/-! ## The registers over the bus -/

/-- A step in which the Host writes a register and no hazard arises (R21, R158). -/
theorem step_of_regWrite {s : State} (r : Reg) {v : Word}
    (h : s.hostNext (.write 32 (BitVec.ofNat 25 r.offset) v)) (hb : (s.busy && r.isField) = false) :
    step s = .next ((s.popTurn.setReg v r).respond .written) := by
  rw [step_of_host s _ h, State.hostAccess, hostWrite_reg s.popTurn r v hb]

/-- A step in which the Host reads a register that no command in flight holds (R21, R159). -/
theorem step_of_regRead {s : State} (r : Reg)
    (h : s.hostNext (.read 32 (BitVec.ofNat 25 r.offset)))
    (hb : (s.busy && r.heldWhileBusy) = false) :
    step s = .next (s.popTurn.respond (.word (s.popTurn.regValue r))) := by
  rw [step_of_host s _ h, State.hostAccess, hostRead_reg s.popTurn r hb]

/-- A turn taken off the schedule leaves every register alone. -/
@[simp] theorem State.popTurn_regValue (s : State) (r : Reg) : s.popTurn.regValue r = s.regValue r := by
  cases r <;> rfl

/-- What the bus answers is in no register. -/
@[simp] theorem State.respond_regValue (s : State) (x : Response) (r : Reg) :
    (s.respond x).regValue r = s.regValue r := by
  cases r <;> rfl

/-- STATUS bit by bit (R33). -/
theorem statusWord_layout (s : State) :
    s.statusWord.getLsbD 0 = s.busy ∧ s.statusWord.getLsbD 1 = s.done ∧
    s.statusWord.getLsbD 2 = s.ovr ∧ s.statusWord.extractLsb' 8 4 = s.code ∧
    s.statusWord.extractLsb' 3 5 = 0#5 ∧ s.statusWord.extractLsb' 12 20 = 0#20 := by
  unfold State.statusWord
  generalize s.code = c, s.ovr = o, s.done = d, s.busy = b
  revert c o d b
  decide

/-- Settles O38: STATUS reads as `statusWord`, whose bits `statusWord_layout` gives. -/
theorem statusReadLayout : Obligations.StatusReadLayout := by
  intro s h
  exact ⟨s.statusWord, step_of_regRead .status h (Bool.and_false _), statusWord_layout s⟩

/-- The acknowledgement with R38's two conditions written out. -/
theorem ackStatus_eq_ite (s : State) (v : Word) :
    s.ackStatus v = { s with
      done := if v.getLsbD 1 then false else s.done
      ovr := if v.getLsbD 2 then false else s.ovr } := by
  unfold State.ackStatus
  cases v.getLsbD 1 <;> cases v.getLsbD 2 <;> simp

/-- Settles O39: a STATUS write is the acknowledgement. -/
theorem statusWriteClearsOnes : Obligations.StatusWriteClearsOnes := by
  intro s v h
  rw [step_of_regWrite .status h (Bool.and_false _), State.setReg, ackStatus_eq_ite]
  rfl

/-- CTRL reads as the number of IE (R39). -/
theorem regValue_ctrl (s : State) : s.regValue .ctrl = if s.ie then 1#32 else 0#32 := by
  unfold State.regValue
  cases s.ie <;> rfl

/-- Settles O40: CTRL is written and read like any register, BUSY set or not. -/
theorem ctrlWriteSetsInterruptEnable : Obligations.CtrlWriteSetsInterruptEnable := by
  refine fun s v => ⟨fun h => step_of_regWrite .ctrl h (Bool.and_false _), fun h => ?_⟩
  rw [step_of_regRead .ctrl h (Bool.and_false _), State.popTurn_regValue, regValue_ctrl]
  rfl

/-- Every register after a write to a field register (R21, R22). -/
theorem setReg_regValue (s : State) (v : Word) {r : Reg} (hr : r.isField = true) (q : Reg) :
    (s.setReg v r).regValue q =
      if q = r then (if r = .subtype then (v.setWidth 5).setWidth 32 else v) else s.regValue q := by
  cases r
  case cmd | status | ctrl | hdrErr => cases hr
  all_goals cases q <;> rfl

/-- A write to a field register latches no command. -/
theorem setReg_cur (s : State) (v : Word) {r : Reg} (hr : r.isField = true) :
    (s.setReg v r).cur = s.cur := by
  cases r
  case cmd | status | ctrl | hdrErr => cases hr
  all_goals rfl

/-- Settles O41: a write is `setReg`, a read answers `regValue`. -/
theorem fieldRegisterReadsBack : Obligations.FieldRegisterReadsBack := by
  refine fun s r v => ⟨fun hr hb h => ?_, fun hr h => ?_,
    rfl, rfl, rfl, rfl, rfl, rfl, rfl, rfl, rfl, rfl, rfl⟩
  · obtain ⟨hbuf, _, _, hfaults, _⟩ := setReg_frame s.popTurn v r
    refine ⟨_, step_of_regWrite r h (by simp [hb]), ?_, fun q hq => ?_, hbuf, hfaults,
      setReg_cur _ v hr⟩
    · rw [State.respond_regValue, setReg_regValue _ v hr, if_pos rfl]
    · rw [State.respond_regValue, setReg_regValue _ v hr, if_neg hq, State.popTurn_regValue]
  · have hheld : (s.busy && r.heldWhileBusy) = false := by
      rcases hr with hb | rfl | rfl | rfl
      · rw [hb, Bool.false_and]
      all_goals exact Bool.and_false _
    rw [step_of_regRead r h hheld, State.popTurn_regValue]
    rfl

/-! ## The interrupt line and the fault record -/

/-- IRQ is low without DONE. -/
theorem irq_of_not_done {s : State} (h : s.done = false) : s.irq = false := by
  rw [State.irq, h, Bool.false_and]

/-- IRQ is low without IE. -/
theorem irq_of_not_ie {s : State} (h : s.ie = false) : s.irq = false := by
  rw [State.irq, h, Bool.and_false]

/-- Settles O50: a reset, an issue and an acknowledgement leave DONE clear, a disable IE. -/
theorem interruptLine : Obligations.InterruptLine := by
  refine ⟨fun _ => rfl, fun s t h hcase => ?_⟩
  rcases hcase with hr | ⟨w, hw, hb⟩ | ⟨v, hv, h1⟩ | ⟨v, hv, h0⟩
  · rw [step_of_reset s hr] at h
    cases h
    exact irq_of_not_done rfl
  · rw [step_of_regWrite .cmd hw (Bool.and_false _), State.setReg, State.writeCmd,
      State.popTurn_busy, hb] at h
    cases h
    exact irq_of_not_done rfl
  · rw [step_of_regWrite .status hv (Bool.and_false _)] at h
    cases h
    exact irq_of_not_done (by simp [State.setReg, h1])
  · rw [step_of_regWrite .ctrl hv (Bool.and_false _)] at h
    cases h
    exact irq_of_not_ie h0

/-- Settles O54: a host access only adds to the record (`hostAccess_faults`), and every other step
keeps it. -/
theorem faultsAreNeverCleared : Obligations.FaultsAreNeverCleared := by
  intro s t h
  rcases step_inv h with ⟨_, rfl⟩ | ⟨a, _, rfl⟩ | ⟨_, rfl⟩ | ⟨_, _, hc⟩
  · exact ⟨id, id⟩
  · rcases hostAccess_faults s.popTurn a with hf | hf | hf <;> rw [hf]
    · exact ⟨id, id⟩
    · exact ⟨fun _ => rfl, id⟩
    · exact ⟨id, fun _ => rfl⟩
  · exact ⟨id, id⟩
  · rw [hc.faults]
    exact ⟨id, id⟩

/-! ## When the bits of STATUS and HDR_ERR change -/

/-- A bit that a step leaves alone neither rises nor falls. -/
theorem no_rise_no_fall {a b : Bool} {P Q : Prop} (h : b = a) :
    (a = false → b = true → P) ∧ (a = true → b = false → Q) := by
  subst h
  exact ⟨fun h0 h1 => absurd (h0 ▸ h1) (by decide), fun h1 h0 => absurd (h1 ▸ h0) (by decide)⟩

/-- Settles O55, by what the step does to STATUS. -/
theorem busyChangesOnlyAtIssueCompletionReset :
    Obligations.BusyChangesOnlyAtIssueCompletionReset := by
  intro s t h
  rcases step_status h with ⟨hr, rfl⟩ | ⟨he, _, hc⟩ | ⟨w, hw, _, rfl⟩ | ⟨w, _, _, rfl⟩ |
    ⟨v, _, rfl⟩ | hsame
  · exact ⟨fun _ ht => by simp at ht, fun _ _ => .inl hr⟩
  · exact ⟨fun _ ht => by simp [hc.busy] at ht, fun _ _ => .inr ⟨he, hc.done⟩⟩
  · exact ⟨fun _ _ => ⟨w, hw⟩, fun _ ht => by simp at ht⟩
  · exact no_rise_no_fall rfl
  · exact no_rise_no_fall rfl
  · exact no_rise_no_fall hsame.busy

/-- Settles O56, by what the step does to STATUS. -/
theorem overrunChangesOnlyByItsRule : Obligations.OverrunChangesOnlyByItsRule := by
  intro s t h
  rcases step_status h with ⟨hr, rfl⟩ | ⟨_, _, hc⟩ | ⟨w, _, _, rfl⟩ | ⟨w, hw, hb, rfl⟩ |
    ⟨v, hv, rfl⟩ | hsame
  · exact ⟨fun _ ht => by simp at ht, fun _ _ => .inl hr⟩
  · exact no_rise_no_fall hc.ovr
  · exact no_rise_no_fall rfl
  · exact ⟨fun _ _ => ⟨hb, w, hw⟩, fun _ ht => by simp at ht⟩
  · exact ⟨fun hs ht => by simp [hs] at ht, fun hs ht => .inr ⟨v, hv, by simpa [hs] using ht⟩⟩
  · exact no_rise_no_fall hsame.ovr

/-- CODE and HDR_ERR keep their values but at a reset and a completion (R37, R40, R135). -/
theorem code_hdrErr_kept {s t : State} (h : step s = .next t) :
    (s.nextTurn.reset = true ∨ (s.nextTurn = ⟨false, .engine⟩ ∧ s.busy = true)) ∨
    (t.code = s.code ∧ t.hdrErr = s.hdrErr) := by
  rcases step_status h with ⟨hr, _⟩ | ⟨he, hb, _⟩ | ⟨w, _, _, rfl⟩ | ⟨w, _, _, rfl⟩ |
    ⟨v, _, rfl⟩ | hsame
  · exact .inl (.inl hr)
  · exact .inl (.inr ⟨he, hb⟩)
  · exact .inr ⟨rfl, rfl⟩
  · exact .inr ⟨rfl, rfl⟩
  · exact .inr ⟨rfl, rfl⟩
  · exact .inr ⟨hsame.code, hsame.hdrErr⟩

/-- Settles O57, by `code_hdrErr_kept`. -/
theorem codeChangesOnlyAtCompletionOrReset : Obligations.CodeChangesOnlyAtCompletionOrReset :=
  fun _ _ h hne => (code_hdrErr_kept h).resolve_right fun hkept => hne hkept.1

/-- DONE rises only at a completion (R35). -/
theorem done_rises {s t : State} (h : step s = .next t) (hs : s.done = false) (ht : t.done = true) :
    s.nextTurn = ⟨false, .engine⟩ ∧ s.busy = true := by
  rcases step_status h with ⟨_, rfl⟩ | ⟨he, hb, _⟩ | ⟨w, _, _, rfl⟩ | ⟨w, _, _, rfl⟩ |
    ⟨v, _, rfl⟩ | hsame
  · simp at ht
  · exact ⟨he, hb⟩
  · simp at ht
  · simp [hs] at ht
  · simp [hs] at ht
  · simp [hsame.done, hs] at ht

/-- DONE falls only at a reset, an issue and an acknowledgement (R35, R38). -/
theorem done_falls {s t : State} (h : step s = .next t) (hs : s.done = true) (ht : t.done = false) :
    s.nextTurn.reset = true ∨ (∃ w, s.hostNext (.write 32 0x000 w) ∧ s.busy = false) ∨
      ∃ v, s.hostNext (.write 32 0x004 v) ∧ v.getLsbD 1 = true := by
  rcases step_status h with ⟨hr, _⟩ | ⟨_, _, hc⟩ | ⟨w, hw, hb, _⟩ | ⟨w, _, _, rfl⟩ |
    ⟨v, hv, rfl⟩ | hsame
  · exact .inl hr
  · simp [hc.done] at ht
  · exact .inr (.inl ⟨w, hw, hb⟩)
  · simp [hs] at ht
  · exact .inr (.inr ⟨v, hv, by simpa [hs] using ht⟩)
  · simp [hsame.done, hs] at ht

/-- Settles O60: `done_rises`, `done_falls`, `code_hdrErr_kept`, and a write to HDR_ERR, which sets no
register (log entry 8). -/
theorem doneAndHdrErrChangeOnlyByTheirRules : Obligations.DoneAndHdrErrChangeOnlyByTheirRules := by
  refine fun s t h => ⟨done_rises h, done_falls h,
    fun hne => (code_hdrErr_kept h).resolve_right fun hkept => hne hkept.2, fun v hv => ?_⟩
  rw [step_of_regWrite .hdrErr hv (Bool.and_false _)] at h
  cases h
  rfl

end Sys2Proof.Machine

/-! # The host's accesses (spec/20_memory.md)

Which offsets and widths reach nothing, a reserved offset or BUF; the answer of a step in each case;
and the statements of 20_memory.md, which follow from these. -/

namespace Sys2Proof.Machine

/-! ## What an access reaches -/

/-- Outside the BUF window the window is reserved (R48). -/
theorem windowTarget_outside (P : Params) {o : Nat} (h : o < bufBase ∨ bufBase + P.bufSize ≤ o) :
    windowTarget P o = .reserved := by
  rw [windowTarget, if_neg (by omega)]

/-- Nothing in the window is illegal by its offset alone. -/
theorem windowTarget_ne_illegal (P : Params) (o : Nat) : windowTarget P o ≠ .illegal := by
  unfold windowTarget
  split <;> simp

/-- WIRE_LEN is the last register (R21). -/
theorem Reg.offset_le (r : Reg) : r.offset ≤ 0x030 := by
  cases r <;> decide

/-- No register lies behind WIRE_LEN (R21). -/
theorem Reg.ofOffset_eq_none {o : Nat} (h : 0x034 ≤ o) : Reg.ofOffset o = none := by
  refine List.find?_eq_none.2 fun r _ hr => ?_
  have := r.offset_le
  have : r.offset = o := by simpa using hr
  omega

/-- The illegal accesses are the three kinds of R53. -/
theorem target_eq_illegal_iff (P : Params) (w o : Nat) :
    target P w o = .illegal ↔
      (w ≠ 8 ∧ w ≠ 32) ∨ (w = 32 ∧ o % 4 ≠ 0) ∨ (w = 8 ∧ o < 0x1000) := by
  unfold target regSpaceEnd
  split_ifs with h32 halign hreg h8 hreg
  · simp [h32, halign]
  · cases Reg.ofOffset o <;> simp [h32, halign]
  · simp [windowTarget_ne_illegal, h32, halign]
  · simp [h8, hreg]
  · simp [windowTarget_ne_illegal, h8, hreg]
  · simp [h32, h8]

/-- The reserved offsets behind the registers, for both legal widths (R52). -/
theorem target_reserved (P : Params) {w o : Nat}
    (hw : (w = 32 ∧ o % 4 = 0 ∧ 0x034 ≤ o) ∨ (w = 8 ∧ 0x1000 ≤ o))
    (ho : o < bufBase ∨ bufBase + P.bufSize ≤ o) : target P w o = .reserved := by
  rcases hw with ⟨rfl, h4, hmin⟩ | ⟨rfl, hmin⟩
  · rw [target, if_pos rfl, if_neg (by omega)]
    split
    · rw [Reg.ofOffset_eq_none hmin]
    · exact windowTarget_outside P ho
  · rw [target, if_neg (by decide), if_pos rfl, if_neg (by unfold regSpaceEnd; omega)]
    exact windowTarget_outside P ho

/-! ## What a step with an access does -/

section
variable {s : State} {w : Nat} {o : Offset}

/-- A step with an illegal access, read or write (R53). -/
theorem step_of_illegal {v : Word} (h : s.hostNext (.read w o) ∨ s.hostNext (.write w o v))
    (ht : target s.params w o.toNat = .illegal) : step s = .next s.popTurn.busError := by
  rcases h with h | h
  · rw [step_of_host s _ h, State.hostAccess, State.hostRead, State.popTurn_params, ht]
  · rw [step_of_host s _ h, State.hostAccess, State.hostWrite, State.popTurn_params, ht]

/-- A step with a read of a reserved offset (R52). -/
theorem step_of_reservedRead (h : s.hostNext (.read w o))
    (ht : target s.params w o.toNat = .reserved) :
    step s = .next (s.popTurn.respond (zeroResponse w)) := by
  rw [step_of_host s _ h, State.hostAccess, State.hostRead, State.popTurn_params, ht]

/-- A step with a write to a reserved offset (R52). -/
theorem step_of_reservedWrite {v : Word} (h : s.hostNext (.write w o v))
    (ht : target s.params w o.toNat = .reserved) :
    step s = .next (s.popTurn.respond .written) := by
  rw [step_of_host s _ h, State.hostAccess, State.hostWrite, State.popTurn_params, ht]

/-- A step with a read of BUF while no command is in flight (R50, R51). -/
theorem step_of_bufRead {a : Nat} (h : s.hostNext (.read w o)) (hb : s.busy = false)
    (ht : target s.params w o.toNat = .buf a) : step s = .next (s.popTurn.readBuf w a) := by
  rw [step_of_host s _ h, State.hostAccess, State.hostRead, State.popTurn_params, ht]
  simp [hb]

/-- A step with a write to BUF while no command is in flight (R50, R51). -/
theorem step_of_bufWrite {a : Nat} {v : Word} (h : s.hostNext (.write w o v))
    (hb : s.busy = false) (ht : target s.params w o.toNat = .buf a) :
    step s = .next { s.popTurn with
      buf := s.buf.store a (storedBytes w v), response := some .written } := by
  rw [step_of_host s _ h, State.hostAccess, State.hostWrite, State.popTurn_params, ht]
  simp [hb, State.respond]

end

/-! ## Reserved and illegal accesses -/

/-- Settles O46: the three kinds are what `target` calls illegal. -/
theorem illegalAccessIsBusError : Obligations.IllegalAccessIsBusError :=
  fun s w o _ hkind h => step_of_illegal h ((target_eq_illegal_iff s.params w o.toNat).2 hkind)

/-- Settles O45: `target_reserved` for the legal accesses; an 8-bit one to register space is illegal. -/
theorem reservedOffsetsReadZero : Obligations.ReservedOffsetsReadZero := by
  refine fun s w o v => ⟨fun hw ho => ?_, fun _ hmax h => ?_⟩
  · have ht := target_reserved s.params hw ho
    exact ⟨fun h => step_of_reservedRead h ht, fun h => step_of_reservedWrite h ht⟩
  · exact illegalAccessIsBusError s 8 o v (.inr (.inr ⟨rfl, hmax⟩)) h

/-- Settles O47: by `hostRead_frame` only an illegal read touches the fault record, and that adds
HostBusError alone. -/
theorem hostReadsHaveNoSideEffect : Obligations.HostReadsHaveNoSideEffect := by
  intro s w o h
  refine ⟨_, step_of_host s _ h, ?_⟩
  rcases hostRead_frame s.popTurn w o with ⟨r, n, hread⟩ | ⟨ht, hread⟩ <;>
    rw [State.hostAccess, hread]
  · exact ⟨rfl, rfl, fun _ => rfl⟩
  · refine ⟨rfl, rfl, fun hlegal => ?_⟩
    have hkind := (target_eq_illegal_iff _ w o.toNat).1 ht
    omega

/-! ## The BUF window -/

/-- Byte `k` of a word of a byte sequence is byte `k` of the four it stands for (R11). -/
theorem wordAt_extractLsb' (bs : List Byte) (i : Nat) {k : Nat} (hk : k < 4) :
    (wordAt bs i).extractLsb' (24 - 8 * k) 8 = bs.getD (i + k) 0 := by
  have hbyte := be32_getElem? (wordAt bs i) k hk
  rw [wordAt, be32_ofBE] at hbyte
  rw [wordAt, ← Option.some_inj, ← hbyte]
  match k, hk with
  | 0, _ | 1, _ | 2, _ | 3, _ => rfl

/-- Byte `k` of the word read from BUF at `a` is BUF[a + k] (R51). -/
theorem wordAt_readRegion (m : Memory) (d a : Nat) {k : Nat} (hk : k < 4) :
    (wordAt (m.readRegion d a 4) 0).extractLsb' (24 - 8 * k) 8 = m.read (d + k) (a + k) := by
  rw [wordAt_extractLsb' _ _ hk, Nat.zero_add, List.getD_eq_getElem?_getD,
    Memory.readRegion_getElem? _ _ _ _ _ hk, Option.getD_some]

/-- The bytes of a word stored at `a` stand there most significant first (R51). -/
theorem cell_store_be32 (m : Memory) (a : Nat) (v : Word) {k : Nat} (hk : k < 4) :
    (m.store a (be32 v)).cell (a + k) = some (v.extractLsb' (24 - 8 * k) 8) := by
  have hin : a ≤ a + k ∧ a + k < a + (be32 v).length := by rw [be32_length]; omega
  rw [Memory.cell_store, if_pos hin, Nat.add_sub_cancel_left, be32_getElem? v k hk]

/-- Settles O42: one byte is read, or one cell set. -/
theorem bufByteAccess : Obligations.BufByteAccess := by
  intro s o a v hb ha ho
  have ht : target s.params 8 o.toNat = .buf a := ho ▸ target_buf_byte s.params a ha
  refine ⟨fun h => ⟨_, step_of_bufRead h hb ht, rfl, rfl⟩,
    fun h => ⟨_, step_of_bufWrite h hb ht, rfl, rfl, ?_, fun x hx => ?_⟩⟩
  · rw [← BitVec.setWidth_eq_extractLsb' (by decide)]
    exact Memory.cell_store_inside s.buf a [v.setWidth 8] 0 Nat.one_pos
  · refine Memory.cell_store_outside _ _ _ _ ?_
    show x < a ∨ a + 1 ≤ x
    omega

/-- Settles O43: the word read is the four bytes of BUF, the word written is stored as be32. -/
theorem bufWordAccessIsBigEndian : Obligations.BufWordAccessIsBigEndian := by
  intro s o a v hb ha h4 ho
  have ht : target s.params 32 o.toNat = .buf a := ho ▸ target_buf_word s.params a ha h4
  exact ⟨fun h => ⟨_, _, step_of_bufRead h hb ht, rfl, rfl,
      fun _ hi => wordAt_readRegion s.buf s.draws a hi⟩,
    fun h => ⟨_, step_of_bufWrite h hb ht, rfl, fun _ hi => cell_store_be32 s.buf a v hi,
      fun x hx => Memory.cell_store_outside s.buf a (be32 v) x hx⟩⟩

end Sys2Proof.Machine

/-! # Command words (spec/30_encoding.md section 1)

The fields of a word by its number and the word back from its fields; then one lemma says what decoding
to a command means (`decode_eq_ok_iff`), and the statements on the decoder follow from it and from the
decoder by numbers (`decode_by_toNat`). -/

namespace Sys2Proof

/-! ## The fields of a word -/

/-- OP by the word's number (R69). -/
theorem opField_eq_ofNat_iff (w : Word) {k : Nat} (hk : k < 256) :
    opField w = BitVec.ofNat 8 k ↔ w.toNat % 256 = k := by
  rw [← BitVec.toNat_inj, opField, BitVec.extractLsb'_toNat, BitVec.toNat_ofNat,
    Nat.mod_eq_of_lt hk, Nat.shiftRight_zero]

/-- A and S together by the word's number (R69). -/
theorem optionField_eq_zero_iff (w : Word) : optionField w = 0#2 ↔ w.toNat / 256 % 4 = 0 := by
  rw [← BitVec.toNat_inj, optionField, BitVec.extractLsb'_toNat, Nat.shiftRight_eq_div_pow]
  rfl

/-- RSV by the word's number (R69). -/
theorem rsvField_eq_zero_iff (w : Word) : rsvField w = 0#22 ↔ w.toNat / 1024 = 0 := by
  have hlt : w.toNat / 1024 < 2 ^ 22 := by omega
  rw [← BitVec.toNat_inj, rsvField, BitVec.extractLsb'_toNat, Nat.shiftRight_eq_div_pow,
    Nat.mod_eq_of_lt hlt]
  rfl

/-- No option is set when both option bits are clear (R69, R71). -/
theorem optionField_eq_zero_iff_bits (w : Word) :
    optionField w = 0#2 ↔ w.getLsbD 8 = false ∧ w.getLsbD 9 = false := by
  constructor
  · intro h
    exact ⟨by simpa [optionField] using congrArg (BitVec.getLsbD · 0) h,
      by simpa [optionField] using congrArg (BitVec.getLsbD · 1) h⟩
  · rintro ⟨ha, hs⟩
    apply BitVec.eq_of_getLsbD_eq
    intro i hi
    match i, hi with
    | 0, _ => simpa [optionField] using ha
    | 1, _ => simpa [optionField] using hs

/-- A word is the word of its fields: no bit is outside them (R69). -/
theorem Cmd32.toWord_ofWord (w : Word) : (Cmd32.ofWord w).toWord = w := by
  unfold Cmd32.toWord Cmd32.ofWord opField rsvField
  apply BitVec.eq_of_getLsbD_eq
  intro i hi
  simp only [BitVec.getLsbD_append, BitVec.getLsbD_extractLsb', BitVec.getLsbD_ofBool]
  split_ifs with hop ha hs
  · simp [hop]
  · obtain rfl : i = 8 := by omega
    rfl
  · obtain rfl : i = 9 := by omega
    rfl
  · have hrsv : i - 8 - 1 - 1 < 22 := by omega
    have hback : 10 + (i - 8 - 1 - 1) = i := by omega
    simp [hrsv, hback]

/-- The fields of the forms of DES (R71). -/
theorem desForm_fields (a s : Bool) : (desForm a s).fields = ⟨0x03#8, a, s, 0#22⟩ := by
  cases a <;> cases s <;> rfl

/-! ## Words and commands -/

/-- Every command has the properties that `Laws.RoundTrip` gives one by one. -/
theorem Instr.roundTrip (i : Instr) : Laws.RoundTrip.Statement i := by
  cases i with
  | size => exact Laws.RoundTrip.size
  | ser => exact Laws.RoundTrip.ser
  | des => exact Laws.RoundTrip.des
  | desA => exact Laws.RoundTrip.desA
  | desS => exact Laws.RoundTrip.desS
  | desAS => exact Laws.RoundTrip.desAS

theorem decode_encode (i : Instr) : decode (encode i) = .ok i := by
  obtain ⟨_, _, hdecode⟩ := i.roundTrip
  exact hdecode

/-- A word that decodes has the fields of its command. -/
theorem ofWord_of_decode_ok {w : Word} {i : Instr} (h : decode w = .ok i) :
    Cmd32.ofWord w = i.fields := by
  unfold decode at h
  split_ifs at h with hrsv hsize hnone hser hnone hdes <;> cases h <;>
    rw [not_not] at hrsv
  · obtain ⟨ha, hs⟩ := (optionField_eq_zero_iff_bits w).1 hnone
    rw [Cmd32.ofWord, hsize, ha, hs, hrsv, Instr.fields]
  · obtain ⟨ha, hs⟩ := (optionField_eq_zero_iff_bits w).1 hnone
    rw [Cmd32.ofWord, hser, ha, hs, hrsv, Instr.fields]
  · rw [Cmd32.ofWord, hdes, hrsv, desForm_fields]

/-- A word decodes to a command exactly when it has the command's fields. -/
theorem decode_eq_ok_iff (w : Word) (i : Instr) : decode w = .ok i ↔ Cmd32.ofWord w = i.fields := by
  refine ⟨ofWord_of_decode_ok, fun h => ?_⟩
  have hw : w = encode i := by rw [encode, ← h, Cmd32.toWord_ofWord]
  rw [hw, decode_encode]

/-- The well-formed fields are those of the commands (R70 to R73). -/
theorem Cmd32.wellFormed_iff (c : Cmd32) : c.wellFormed = true ↔ ∃ i : Instr, c = i.fields := by
  constructor
  · obtain ⟨op, a, s, rsv⟩ := c
    intro h
    simp only [Cmd32.wellFormed, Cmd32.reservedClear, Cmd32.opKnown, Cmd32.optionsLegal,
      Bool.and_eq_true, Bool.or_eq_true, beq_iff_eq, Bool.not_eq_true'] at h
    obtain ⟨⟨rfl, (rfl | rfl) | rfl⟩, hopt⟩ := h
    · obtain ⟨rfl, rfl⟩ := hopt.resolve_left (by decide)
      exact ⟨.size, rfl⟩
    · obtain ⟨rfl, rfl⟩ := hopt.resolve_left (by decide)
      exact ⟨.ser, rfl⟩
    · exact ⟨desForm a s, (desForm_fields a s).symm⟩
  · rintro ⟨i, rfl⟩
    obtain ⟨hwf, _⟩ := i.roundTrip
    exact hwf

/-- Settles O2: `decode_encode`; the word back from the fields that `decode_eq_ok_iff` gives; and
`Cmd32.wellFormed_iff` on those fields. -/
theorem decodeAgreesWithEncode : Obligations.DecodeAgreesWithEncode := by
  refine ⟨fun i _ => decode_encode i, fun w i h => ?_, fun w => ?_⟩
  · rw [encode, ← ofWord_of_decode_ok h, Cmd32.toWord_ofWord]
  · simp only [decode_eq_ok_iff, Cmd32.wellFormed_iff]

/-! ## The decoder by numbers -/

/-- The decoder of R73 with its fields read as numbers. -/
theorem decode_by_toNat (w : Word) : decode w =
    if w.toNat / 1024 ≠ 0 then .error .reservedBits
    else if w.toNat % 256 = 1 then
      if w.toNat / 256 % 4 = 0 then .ok .size else .error .reservedOption
    else if w.toNat % 256 = 2 then
      if w.toNat / 256 % 4 = 0 then .ok .ser else .error .reservedOption
    else if w.toNat % 256 = 3 then .ok (desForm (w.getLsbD 8) (w.getLsbD 9))
    else .error .reservedOp := by
  have hop (k : Nat) (hk : k < 256) := opField_eq_ofNat_iff w hk
  simp only [decode, ne_eq, rsvField_eq_zero_iff, optionField_eq_zero_iff, hop 1 (by decide),
    hop 2 (by decide), hop 3 (by decide)]

/-- Settles O3: each clause picks one branch of `decode_by_toNat`. -/
theorem decodeByFieldValues : Obligations.DecodeByFieldValues := by
  refine ⟨fun w => ?_, rfl, rfl, rfl, rfl⟩
  rw [decode_by_toNat]
  refine ⟨fun hrsv => ⟨_, if_pos hrsv⟩, fun hrsv => ?_⟩
  rw [if_neg (not_not.2 hrsv)]
  refine ⟨fun h1 h0 => ?_, fun h2 h0 => ?_, fun h3 => ?_, fun h12 h0 => ?_, fun h1 h2 h3 => ?_⟩
  · rw [if_pos h1, if_pos h0]
  · simp [h2, h0]
  · simp [h3]
  · rcases h12 with h1 | h2
    · exact ⟨.reservedOption, by simp [h1, h0]⟩
    · exact ⟨.reservedOption, by simp [h2, h0]⟩
  · exact ⟨.reservedOp, by simp [h1, h2, h3]⟩

/-- Settles O1: the six words are the encodings of the six commands. -/
theorem sixCommandWordsDecode : Obligations.SixCommandWordsDecode :=
  ⟨decode_encode .size, decode_encode .ser, decode_encode .des, decode_encode .desA,
    decode_encode .desS, decode_encode .desAS⟩

end Sys2Proof

namespace Sys2Proof.Machine

/-! ## Reserved words -/

/-- A reserved word's completion, without a hazard mark to clear (R74). -/
theorem State.completeBad_of_untainted {s : State} (h : s.tainted = false) :
    s.completeBad = { s with code := 8#4, busy := false, done := true } := by
  have hreport : s.completeBad =
    { s with code := 8#4, busy := false, done := true, tainted := false } := rfl
  rw [hreport]
  simp [h]

/-- Settles O6: the issue step decodes nothing (R132), and a reserved word's completion is
`completeBad`. -/
theorem reservedWordCompletesBadCommand : Obligations.ReservedWordCompletesBadCommand := by
  refine fun s w e hd => ⟨fun h hb => ?_, fun h hw => ?_⟩
  · rw [step_of_regWrite .cmd h (Bool.and_false _), State.setReg, State.writeCmd,
      State.popTurn_busy, hb]
    rfl
  · rw [step_of_reserved s e h (hw ▸ hd)]
    obtain ⟨_, _, htainted⟩ := h
    rw [State.completeBad_of_untainted (s := s.popTurn) htainted]

end Sys2Proof.Machine

/-! # The serializer (spec/40_serializer.md)

SIZE and SER from any state: what the padding engine gives, one equation for each outcome of SER,
the bytes SER lays down, and what DES makes of them. -/

namespace Sys2Proof.Machine

/-! ## The padding engine and SIZE -/

theorem padSer_eq_zero_iff (n : Nat) : padSer n = 0 ↔ n % 4 = 0 := by unfold padSer; omega

/-- The wire size counts the words of the packet: four fixed ones and those of the data (R95). -/
theorem wireSize_eq_words (n : Nat) : wireSize n = 16 + 4 * ((n + 3) / 4) := by
  unfold wireSize padSer; omega

/-- Settles O12: the pad by the remainder of `n`, and `wireSize_mod`. -/
theorem padAndWireSize : Obligations.PadAndWireSize := by
  intro n
  refine ⟨rfl, Nat.le_of_lt_succ (padSer_lt n), rfl, wireSize_mod n, ?_, ?_, ?_, ?_⟩
  all_goals
    intro h
    rw [padSer, h]

/-- SIZE from any state (R96). -/
theorem exec_size_eq (s : State) : exec .size s =
    .next ({ s with wireLen := BitVec.ofNat 32 (wireSize s.dataLen.toNat) }.reported 0#4 0) := rfl

/-- Settles O13: `exec_size_eq`, where `BitVec.ofNat` is the reduction modulo 2^32. -/
theorem sizeWritesWireLen : Obligations.SizeWritesWireLen := by
  refine ⟨by decide, fun s => ?_⟩
  have hmod : BitVec.ofNat 32 (wireSize s.dataLen.toNat % 2 ^ 32) =
      BitVec.ofNat 32 (wireSize s.dataLen.toNat) :=
    BitVec.eq_of_toNat_eq (by simp only [BitVec.toNat_ofNat, Nat.mod_mod])
  rw [exec_size_eq, ← hmod]
  rfl

theorem wireSize_toNat_of_le {n : Nat} (h : n ≤ 0xFFFFFFEC) :
    (BitVec.ofNat 32 (wireSize n)).toNat = wireSize n := by
  rw [BitVec.toNat_ofNat, wireSize_eq_words]
  omega

/-- The `k`-th range of four data lengths above the last exact one wraps to `4 * k` (R97). -/
theorem wireSize_wraps {n k : Nat} (hlo : 0xFFFFFFED + 4 * k ≤ n) (hhi : n ≤ 0xFFFFFFF0 + 4 * k) :
    BitVec.ofNat 32 (wireSize n) = BitVec.ofNat 32 (4 * k) := by
  apply BitVec.eq_of_toNat_eq
  rw [BitVec.toNat_ofNat, BitVec.toNat_ofNat, wireSize_eq_words]
  omega

/-- A wrapped wire size is still a multiple of 4 (R97). -/
theorem wireSize_toNat_mod (n : Nat) : (BitVec.ofNat 32 (wireSize n)).toNat % 4 = 0 := by
  rw [BitVec.toNat_ofNat, Nat.mod_mod_of_dvd _ (by decide), wireSize_mod]

/-- Settles O14: the exact range by `wireSize_toNat_of_le`, the five ranges above it by
`wireSize_wraps` at 0 to 4. -/
theorem sizeWrapsAboveTwoToThe32 : Obligations.SizeWrapsAboveTwoToThe32 := fun s =>
  ⟨_, exec_size_eq s, wireSize_toNat_of_le, wireSize_wraps (k := 0), wireSize_wraps (k := 1),
    wireSize_wraps (k := 2), wireSize_wraps (k := 3),
    fun h => wireSize_wraps (k := 4) h (Nat.le_of_lt s.dataLen.isLt), wireSize_toNat_mod _⟩

/-! ## The header SER builds -/

/-- Settles O16: `serHeader_length`, and the length field by the number of words of the packet. -/
theorem serHeaderValue : Obligations.SerHeaderValue := by
  intro s hcap
  have hflag : (serHeader s.params s).paddingFlag = true ↔ s.dataLen.toNat % 4 ≠ 0 := by
    rw [ne_eq, ← padSer_eq_zero_iff]
    exact bne_iff_ne
  have hzero : s.dataLen = 0#32 ↔ s.dataLen.toNat = 0 := BitVec.toNat_inj.symm
  have hlen := serHeader_length s.params s hcap
  refine ⟨rfl, hlen, hflag, rfl, ?_⟩
  rw [hlen, hzero, wireSize_eq_words]
  omega

/-! ## The outcomes of SER

One equation per outcome, in the order of R136 (R99, R100, R102, R103, R105), and one inversion. -/

@[simp] theorem State.reported_code (s : State) (c : BitVec 4) (n : Nat) :
    (s.reported c n).code = c := rfl
@[simp] theorem State.reported_buf (s : State) (c : BitVec 4) (n : Nat) :
    (s.reported c n).buf = s.buf := rfl
@[simp] theorem State.reported_dataPtr (s : State) (c : BitVec 4) (n : Nat) :
    (s.reported c n).dataPtr = s.dataPtr := rfl
@[simp] theorem State.reported_wirePtr (s : State) (c : BitVec 4) (n : Nat) :
    (s.reported c n).wirePtr = s.wirePtr := rfl
@[simp] theorem State.reported_wireLen (s : State) (c : BitVec 4) (n : Nat) :
    (s.reported c n).wireLen = s.wireLen := rfl
@[simp] theorem State.reported_hdrErr (s : State) (c : BitVec 4) (n : Nat) :
    (s.reported c n).hdrErr = s.hdrErr := rfl

/-- The state of a packet written: the bytes of R104 at WIRE_PTR, and their number in WIRE_LEN
(R105). -/
def State.serWritten (s : State) (hb : Bytes4) : State :=
  { s with
    buf := s.buf.store s.wirePtr.toNat (serOutput s hb)
    wireLen := BitVec.ofNat 32 (wireSize s.dataLen.toNat) }

@[simp] theorem State.serWritten_buf (s : State) (hb : Bytes4) :
    (s.serWritten hb).buf = s.buf.store s.wirePtr.toNat (serOutput s hb) := by
  rw [State.serWritten]
@[simp] theorem State.serWritten_wirePtr (s : State) (hb : Bytes4) :
    (s.serWritten hb).wirePtr = s.wirePtr := rfl
@[simp] theorem State.serWritten_wireLen (s : State) (hb : Bytes4) :
    (s.serWritten hb).wireLen = BitVec.ofNat 32 (wireSize s.dataLen.toNat) := rfl

/-- Both regions SER uses are in bounds (R103). -/
def State.serBounded (s : State) : Prop :=
  inBounds s.params s.dataPtr.toNat s.dataLen.toNat ∧
    inBounds s.params s.wirePtr.toNat (wireSize s.dataLen.toNat)

section
variable {s : State}

theorem exec_ser_dataTooLarge (h : 65519 < s.dataLen.toNat) :
    exec .ser s = .next (s.reported 1#4 s.dataLen.toNat) := by
  have hr : serResult s.params s = .error ⟨.dataTooLarge, none⟩ := if_pos h
  rw [exec_ser, hr]
  rfl

variable (hcap : s.dataLen.toNat ≤ 65519)
include hcap

theorem exec_ser_invalidName (h : s.nameLen ≠ 4#32) :
    exec .ser s = .next (s.reported 2#4 s.dataLen.toNat) := by
  have hr : serResult s.params s = .error ⟨.invalidName, none⟩ :=
    (if_neg (Nat.not_lt.2 hcap)).trans (if_pos h)
  rw [exec_ser, hr]
  rfl

variable (hname : s.nameLen = 4#32)
include hname

theorem exec_ser_headerError {e : BitVec s.params.hdrErrW}
    (h : s.params.hc.ser (serHeader s.params s) = .error e) :
    exec .ser s =
      .next ({ s with hdrErr := e.setWidth 32 }.reported 6#4 s.dataLen.toNat) := by
  have hcap' : ¬ s.dataLen.toNat > dataMax := Nat.not_lt.2 hcap
  have hr : serResult s.params s = .error ⟨.headerError, some (e.setWidth 32)⟩ := by
    rw [serResult, headerSer, if_neg hcap', if_neg (not_not.2 hname), h]
  rw [exec_ser, hr]
  rfl

variable {hb : Bytes4} (hhead : s.params.hc.ser (serHeader s.params s) = .ok hb)
include hhead

theorem exec_ser_bufferFault (h : ¬ s.serBounded) :
    exec .ser s = .next (s.reported 7#4 s.dataLen.toNat) := by
  have hcap' : ¬ s.dataLen.toNat > dataMax := Nat.not_lt.2 hcap
  have hr : serResult s.params s = .error ⟨.bufferFault, none⟩ := by
    rw [serResult, headerSer, if_neg hcap', if_neg (not_not.2 hname), hhead]
    exact if_neg h
  rw [exec_ser, hr]
  rfl

end

theorem exec_ser_written {s : State} {hb : Bytes4} (h : s.SerInput hb) :
    exec .ser s = .next ((s.serWritten hb).reported 0#4 s.dataLen.toNat) := by
  rw [exec_ser, serResult_ok s hb h]
  rfl

/-- A completion of SER from `s` that one of its checks stopped: nothing but STATUS has changed, and
HDR_ERR with HEADER_ERROR; and the codes of R99 and R100 are reported for their cause only. -/
structure State.SerFailed (s t : State) : Prop where
  failed     : t.code ≠ 0#4
  reportOnly : t = { s with hdrErr := t.hdrErr }.reported t.code s.dataLen.toNat
  hdrErrKept : t.code ≠ 6#4 → t.hdrErr = s.hdrErr
  capped     : s.dataLen.toNat ≤ 65519 → t.code ≠ 1#4
  named      : s.nameLen = 4#32 → t.code ≠ 2#4

/-- SER writes the packet or fails at a check, in the order of R136. -/
theorem exec_ser_cases (s : State) : ∃ t, exec .ser s = .next t ∧
    ((∃ hb, s.SerInput hb ∧ t = (s.serWritten hb).reported 0#4 s.dataLen.toNat) ∨
      s.SerFailed t) := by
  by_cases hcap : s.dataLen.toNat ≤ 65519
  · by_cases hname : s.nameLen = 4#32
    · cases hhead : s.params.hc.ser (serHeader s.params s) with
      | error e =>
        exact ⟨_, exec_ser_headerError hcap hname hhead,
          .inr ⟨by simp, rfl, by simp, by simp, by simp⟩⟩
      | ok hb =>
        by_cases hbound : s.serBounded
        · have hin : s.SerInput hb := ⟨hcap, hname, hhead, hbound.1, hbound.2⟩
          exact ⟨_, exec_ser_written hin, .inl ⟨hb, hin, rfl⟩⟩
        · exact ⟨_, exec_ser_bufferFault hcap hname hhead hbound,
            .inr ⟨by simp, rfl, fun _ => rfl, by simp, by simp⟩⟩
    · exact ⟨_, exec_ser_invalidName hcap hname,
        .inr ⟨by simp, rfl, fun _ => rfl, by simp, fun h => absurd h hname⟩⟩
  · exact ⟨_, exec_ser_dataTooLarge (Nat.not_le.1 hcap),
      .inr ⟨by simp, rfl, fun _ => rfl, fun h => absurd h hcap, by simp⟩⟩

/-- Settles O15: the first two outcomes of SER, and the code of every other one. -/
theorem serChecksCapThenNameLength : Obligations.SerChecksCapThenNameLength := by
  refine fun s => ⟨exec_ser_dataTooLarge, exec_ser_invalidName, ?_⟩
  obtain ⟨t, hexec, ⟨hb, _, rfl⟩ | hfail⟩ := exec_ser_cases s
  · exact ⟨_, hexec, by simp, by simp⟩
  · exact ⟨t, hexec, hfail.capped, hfail.named⟩

/-- Settles O18: a region that ends beyond BUF_SIZE is out of bounds, the wire region never being
empty. -/
theorem serReportsBufferFault : Obligations.SerReportsBufferFault := by
  intro s hb hcap hname hhead hout
  refine exec_ser_bufferFault hcap hname hhead fun hbound => ?_
  obtain ⟨hdata, hwire⟩ := hbound
  have := wireSize_le _ hcap
  simp only [inBounds] at hdata hwire
  omega

/-! ## The packet SER writes -/

section
variable {s : State}

/-- The cells of the wire region are SER's output, in order. -/
theorem State.serWritten_cell (hb : Bytes4) {i : Nat} (h : i < wireSize s.dataLen.toNat) :
    (s.serWritten hb).buf.cell (s.wirePtr.toNat + i) = (serOutput s hb)[i]? := by
  have hi : i < (serOutput s hb).length := by rwa [serOutput_length]
  rw [State.serWritten_buf, List.getElem?_eq_getElem hi, Memory.cell_store_inside s.buf _ _ i hi]

theorem State.serWritten_cell_outside (hb : Bytes4) {a : Nat}
    (h : a < s.wirePtr.toNat ∨ s.wirePtr.toNat + wireSize s.dataLen.toNat ≤ a) :
    (s.serWritten hb).buf.cell a = s.buf.cell a := by
  rw [State.serWritten_buf, Memory.cell_store_outside s.buf _ _ a (by rwa [serOutput_length])]

/-- SER's wire size fits WIRE_LEN (R108). -/
theorem State.serWritten_wireLen_toNat (hb : Bytes4) (hcap : s.dataLen.toNat ≤ 65519) :
    (s.serWritten hb).wireLen.toNat = wireSize s.dataLen.toNat := by
  rw [State.serWritten_wireLen, wireSize_toNat_of_le (by omega)]

theorem State.serWritten_cell_header (hb : Bytes4) {i : Nat} (h : i < 4) :
    (s.serWritten hb).buf.cell (s.wirePtr.toNat + i) = hb.toList[i]? := by
  obtain ⟨hheader, _⟩ := serOutput_getElem? s hb i
  rw [State.serWritten_cell hb (by unfold wireSize; omega), hheader h]

/-- The cell `i` bytes into the part of the packet that starts at offset `o`. -/
theorem State.serWritten_cell_part {hb : Bytes4} {o i : Nat} {b : Byte}
    (h : (serOutput s hb)[o + i]? = some b) :
    (s.serWritten hb).buf.cell (s.wirePtr.toNat + o + i) = some b := by
  obtain ⟨hi, _⟩ := List.getElem?_eq_some_iff.1 h
  rw [serOutput_length] at hi
  rw [Nat.add_assoc, State.serWritten_cell hb hi, h]

end

/-- Settles O17: the two answers of HC.ser, and with bytes the two outcomes that remain. -/
theorem serReportsHeaderError : Obligations.SerReportsHeaderError := by
  refine fun s hcap hname => ⟨fun e he => exec_ser_headerError hcap hname he, fun hb hhead => ?_⟩
  by_cases hbound : s.serBounded
  · have hexec := exec_ser_written ⟨hcap, hname, hhead, hbound.1, hbound.2⟩
    refine ⟨_, hexec, by simp, rfl, fun _ i hi => ?_⟩
    rw [State.reported_buf, State.serWritten_cell_header hb hi]
  · exact ⟨_, exec_ser_bufferFault hcap hname hhead hbound, by simp, rfl, by simp⟩

/-- Settles O19: each part of the packet is the part of `serOutput` at its offset (R104). -/
theorem serWritesThePacket : Obligations.SerWritesThePacket := by
  intro s hb hin
  refine ⟨_, exec_ser_written hin, by rw [State.reported_buf, State.serWritten], ?_⟩
  simp only [State.reported_buf, State.reported_wireLen]
  have hheader {i : Nat} (hi : i < 4) := State.serWritten_cell_header (s := s) hb hi
  refine ⟨State.serWritten_wireLen_toNat hb hin.capped,
    ⟨hheader (i := 0) (by decide), hheader (i := 1) (by decide), hheader (i := 2) (by decide),
      hheader (i := 3) (by decide)⟩,
    fun i hi => ⟨?_, ?_, ?_⟩, fun i hi => ?_, fun i hi => ?_,
    fun a ha => State.serWritten_cell_outside hb ha⟩
  · obtain ⟨_, hsender, _⟩ := serOutput_getElem? s hb (4 + i)
    exact State.serWritten_cell_part (by simpa using hsender (by omega) (by omega))
  · obtain ⟨_, _, hname, _⟩ := serOutput_getElem? s hb (8 + i)
    exact State.serWritten_cell_part (by simpa using hname (by omega) (by omega))
  · obtain ⟨_, _, _, hmedia, _⟩ := serOutput_getElem? s hb (12 + i)
    exact State.serWritten_cell_part (by simpa using hmedia (by omega) (by omega))
  · obtain ⟨_, _, _, _, hdata, _⟩ := serOutput_getElem? s hb (16 + i)
    exact State.serWritten_cell_part (by simpa using hdata (by omega) (by omega))
  · obtain ⟨_, _, _, _, _, hpad⟩ := serOutput_getElem? s hb (16 + s.dataLen.toNat + i)
    have hcell := State.serWritten_cell_part (hpad (by omega) (by unfold wireSize; omega))
    rwa [← Nat.add_assoc] at hcell

/-- Settles O20: a written packet changes BUF in the wire region and WIRE_LEN, a failure neither. -/
theorem serFrame : Obligations.SerFrame := by
  intro s
  obtain ⟨t, hexec, ⟨hb, _, rfl⟩ | hfail⟩ := exec_ser_cases s
  · refine ⟨_, hexec, rfl, rfl, rfl, rfl, rfl, rfl, rfl, rfl, rfl, rfl, rfl, rfl, fun _ => rfl,
      fun h => absurd rfl h, fun _ h => ?_⟩
    rw [State.reported_buf, State.serWritten_cell_outside hb h]
  · have hkept := hfail.hdrErrKept
    rw [hfail.reportOnly] at hexec hkept
    exact ⟨_, hexec, rfl, rfl, rfl, rfl, rfl, rfl, rfl, rfl, rfl, rfl, rfl, rfl, hkept,
      fun _ => ⟨rfl, fun _ => rfl⟩, fun _ _ => rfl⟩

/-- Settles O22: both write `wireSize`, and SER's is exact below the cap. -/
theorem serAndSizeAgree : Obligations.SerAndSizeAgree := by
  intro s
  obtain ⟨t, hexec, ⟨hb, hin, rfl⟩ | hfail⟩ := exec_ser_cases s
  · exact ⟨_, _, hexec, exec_size_eq s,
      fun _ => ⟨rfl, State.serWritten_wireLen_toNat hb hin.capped⟩⟩
  · exact ⟨t, _, hexec, exec_size_eq s, fun h => absurd h hfail.failed⟩

/-- Settles O23: `wireSize_toNat_mod`, and `wireSize_le` for SER's range. -/
theorem writtenWireLenIsAligned : Obligations.WrittenWireLenIsAligned := by
  intro s
  have hmod := wireSize_toNat_mod s.dataLen.toNat
  obtain ⟨t, hexec, ⟨hb, hin, rfl⟩ | hfail⟩ := exec_ser_cases s
  · refine ⟨_, _, exec_size_eq s, hexec, hmod, fun _ => ⟨hmod, ?_⟩⟩
    rw [State.reported_wireLen, State.serWritten_wireLen_toNat hb hin.capped]
    exact wireSize_le _ hin.capped
  · exact ⟨_, t, exec_size_eq s, hexec, hmod, fun h => absurd h hfail.failed⟩

/-! ## What DES makes of SER's output

SER's output passes every check of DES, with the header SER built and SER's own pad. -/

section
variable {s : State} (hb : Bytes4)

theorem serOutput_words : wordAt (serOutput s hb) 4 = s.senderSsrc ∧
    wordAt (serOutput s hb) 8 = s.name ∧ wordAt (serOutput s hb) 12 = s.mediaSsrc := by
  rw [serOutput_eq]
  refine ⟨wordAt_append hb.toList _ _, ?_, ?_⟩
  · simpa using wordAt_append (hb.toList ++ be32 s.senderSsrc) _ s.name
  · simpa using wordAt_append (hb.toList ++ (be32 s.senderSsrc ++ be32 s.name)) _ s.mediaSsrc

theorem serOutput_data : ((serOutput s hb).drop 16).take s.dataLen.toNat = s.dataBytes := by
  have hfixed : (hb.toList ++ be32 s.senderSsrc ++ be32 s.name ++ be32 s.mediaSsrc).length = 16 :=
    rfl
  rw [serOutput, List.append_assoc, List.drop_left' hfixed, List.take_left' s.dataBytes_length]

/-- HC-L2: the header comes back from SER's output. -/
theorem parse_serOutput (h : s.params.hc.ser (serHeader s.params s) = .ok hb) :
    s.params.hc.parse (serOutput s hb) = .ok (serHeader s.params s) := by
  rw [serOutput_eq]
  exact s.params.hc.roundTrip _ _ h _

theorem serOutput_padByte {i : Nat} (hlo : 16 + s.dataLen.toNat ≤ i)
    (hhi : i < wireSize s.dataLen.toNat) :
    ((serOutput s hb).getD i 0).toNat = padSer s.dataLen.toNat := by
  obtain ⟨_, _, _, _, _, hpad⟩ := serOutput_getElem? s hb i
  have hlt := padSer_lt s.dataLen.toNat
  rw [List.getD_eq_getElem?_getD, hpad hlo hhi, Option.getD_some, BitVec.toNat_ofNat]
  omega

/-- SER pads as even S = 1 wants it (R105, R120). -/
theorem padAccepted_serOutput (st : Bool) :
    padAccepted st (serHeader s.params s) (serOutput s hb) (padSer s.dataLen.toNat) := by
  have hsize : wireSize s.dataLen.toNat = 16 + s.dataLen.toNat + padSer s.dataLen.toNat := rfl
  rw [padAccepted, serOutput_length]
  by_cases hpad : padSer s.dataLen.toNat = 0
  · rw [if_neg (by simp [serHeader, hpad]), hpad]
  · rw [if_pos (by simp [serHeader, hpad])]
    exact ⟨(serOutput_padByte hb (by omega) (by omega)).symm, by omega,
      fun _ i hlo hhi => serOutput_padByte hb (by omega) hhi⟩

end

/-! ## DES past its checks of the input -/

section
variable {st : Bool} {s : State} {h : Header} {p : Nat} (hi : s.DesInput st h p)
include hi

/-- DES past its checks of the input, with A = 1 (R123). -/
theorem exec_desForm_inPlace :
    exec (desForm true st) s =
      .next ({ desFields s h s.wireBytes (s.wireLen.toNat - 16 - p) with
        dataPtr := s.wirePtr + 16#32 }.reported 0#4 s.wireLen.toNat) := by
  rw [exec_desForm, desResult_input true st s h p hi]
  rfl

/-- DES past its checks of the input, with A = 0 and the destination in bounds (R122). -/
theorem exec_desForm_copied (hd : inBounds s.params s.dataPtr.toNat (s.wireLen.toNat - 16 - p)) :
    exec (desForm false st) s =
      .next ({ desFields s h s.wireBytes (s.wireLen.toNat - 16 - p) with
        buf := s.buf.store s.dataPtr.toNat
          ((s.wireBytes.drop 16).take (s.wireLen.toNat - 16 - p)) }.reported 0#4
        s.wireLen.toNat) := by
  have hr : desDeliver s.params false s h s.wireBytes (s.wireLen.toNat - 16 - p) = .ok _ :=
    if_pos hd
  rw [exec_desForm, desResult_input false st s h p hi, hr]
  rfl

/-- The data of an accepted input starts below 2^32: WIRE_PTR + 16 does not wrap (R123). -/
theorem State.DesInput.dataStart_toNat :
    (s.wirePtr + 16#32).toNat = s.wirePtr.toNat + 16 := by
  obtain ⟨_, hsize⟩ := s.params.bufSize_range
  have hlong := hi.long
  have hend : s.wirePtr.toNat + s.wireLen.toNat ≤ s.params.bufSize :=
    hi.bounded.resolve_left (by omega)
  rw [BitVec.toNat_add, BitVec.toNat_ofNat]
  omega

end

/-! ## The round trip -/

/-- `u` runs with the parameters of `s` and has in its wire region the packet SER makes of `s`. -/
structure State.HoldsPacket (u s : State) (hb : Bytes4) : Prop where
  setting : u.setting = s.setting
  wirePtr : u.wirePtr = s.wirePtr
  wireLen : u.wireLen.toNat = wireSize s.dataLen.toNat
  cells   : ∀ i < wireSize s.dataLen.toNat, u.buf.cell (u.wirePtr.toNat + i) = (serOutput s hb)[i]?

section
variable {u s : State} {hb : Bytes4} (hp : u.HoldsPacket s hb)
include hp

theorem State.HoldsPacket.params : u.params = s.params :=
  State.params_congr hp.setting

theorem State.HoldsPacket.wireBytes : u.wireBytes = serOutput s hb := by
  rw [State.wireBytes, hp.wireLen, ← serOutput_length s hb]
  refine Memory.readRegion_of_cells _ _ _ _ fun i hi => ?_
  rw [hp.cells i (by rwa [serOutput_length] at hi), List.getElem?_eq_getElem hi]

theorem State.HoldsPacket.dataLength :
    u.wireLen.toNat - 16 - padSer s.dataLen.toNat = s.dataLen.toNat := by
  rw [hp.wireLen, wireSize]
  omega

/-- A packet of SER passes every check of DES (R111). -/
theorem State.HoldsPacket.desInput (hin : s.SerInput hb) (st : Bool) :
    u.DesInput st (serHeader s.params s) (padSer s.dataLen.toNat) where
  bounded := by rw [hp.params, hp.wirePtr, hp.wireLen]; exact hin.wireBounded
  parsed := by rw [hp.params, hp.wireBytes]; exact parse_serOutput hb hin.headed
  long := by rw [hp.wireLen]; exact (wireSize_le _ hin.capped).1
  matched := by
    rw [hp.wireLen, serHeader_length _ s hin.capped, wireSize_eq_words]
    omega
  padded := by rw [hp.wireBytes]; exact padAccepted_serOutput hb st

end

/-- Right after SER, and as long as the wire region and its registers stay, the packet is held. -/
theorem holdsPacket_of_exec_ser {s t u : State} {hb : Bytes4} (hin : s.SerInput hb)
    (hexec : exec .ser s = .next t) (hset : u.setting = s.setting) (hptr : u.wirePtr = t.wirePtr)
    (hlen : u.wireLen = t.wireLen)
    (hcells : ∀ x, t.wirePtr.toNat ≤ x → x < t.wirePtr.toNat + t.wireLen.toNat →
      u.buf.cell x = t.buf.cell x) : u.HoldsPacket s hb := by
  obtain rfl := Host.Outcome.next.inj ((exec_ser_written hin).symm.trans hexec)
  rw [State.reported_wirePtr, State.serWritten_wirePtr] at hptr
  rw [State.reported_wireLen] at hlen
  simp only [State.reported_wirePtr, State.reported_wireLen, State.reported_buf,
    State.serWritten_wirePtr, State.serWritten_wireLen_toNat hb hin.capped] at hcells
  refine ⟨hset, hptr, by rw [hlen, State.serWritten_wireLen_toNat hb hin.capped], fun i hi => ?_⟩
  rw [hptr, hcells _ (Nat.le_add_right _ _) (Nat.add_lt_add_left hi _), State.serWritten_cell hb hi]

/-- `u` with the packet made of `s` decoded into its registers, and its data at `ptr` in `m`
(R124). -/
def State.decoded (u s : State) (ptr : Word) (m : Memory) : State :=
  { u with
    subtype := s.subtype
    senderSsrc := s.senderSsrc
    name := s.name
    nameLen := 4#32
    mediaSsrc := s.mediaSsrc
    dataLen := s.dataLen
    dataPtr := ptr
    buf := m }

@[simp] theorem State.decoded_dataPtr (u s : State) (ptr : Word) (m : Memory) :
    (u.decoded s ptr m).dataPtr = ptr := rfl
@[simp] theorem State.decoded_buf (u s : State) (ptr : Word) (m : Memory) :
    (u.decoded s ptr m).buf = m := rfl

/-- The fields DES loads from SER's output are those SER wrote (R117, R124). -/
theorem desFields_serOutput (u s : State) (hb : Bytes4) :
    desFields u (serHeader s.params s) (serOutput s hb) s.dataLen.toNat =
      u.decoded s u.dataPtr u.buf := by
  obtain ⟨hsender, hname, hmedia⟩ := serOutput_words (s := s) hb
  rw [desFields, hsender, hname, hmedia, BitVec.ofNat_toNat, BitVec.setWidth_eq]
  rfl

section
variable {s u : State} {hb : Bytes4} (hp : u.HoldsPacket s hb) (hin : s.SerInput hb) (st : Bool)
include hp hin

theorem State.HoldsPacket.exec_inPlace : exec (desForm true st) u =
    .next ((u.decoded s (u.wirePtr + 16#32) u.buf).reported 0#4 u.wireLen.toNat) := by
  rw [exec_desForm_inPlace (hp.desInput hin st), hp.wireBytes, hp.dataLength, desFields_serOutput]
  rfl

theorem State.HoldsPacket.exec_copied (hd : inBounds u.params u.dataPtr.toNat s.dataLen.toNat) :
    exec (desForm false st) u =
      .next ((u.decoded s u.dataPtr (u.buf.store u.dataPtr.toNat s.dataBytes)).reported
        0#4 u.wireLen.toNat) := by
  rw [exec_desForm_copied (hp.desInput hin st) (by rwa [hp.dataLength]), hp.wireBytes,
    hp.dataLength, desFields_serOutput, serOutput_data]
  rfl

end

/-- Settles O36: the packet is held, so every form of DES decodes it; with A = 0 the data bytes are
copied from it, with A = 1 they are read in it. -/
theorem serThenDesGivesThePacketBack : Obligations.SerThenDesGivesThePacketBack := by
  intro a st s t u hb hin hexec hset hptr hlen hcells hdest
  have hp := holdsPacket_of_exec_ser hin hexec hset hptr hlen hcells
  cases a with
  | false =>
    refine ⟨_, hp.exec_copied hin st (hdest rfl), rfl, rfl, rfl, rfl, rfl, rfl, rfl, fun _ => rfl,
      nofun, fun i hi => ?_⟩
    rw [State.reported_buf, State.reported_dataPtr, State.decoded_buf, State.decoded_dataPtr,
      Memory.cell_store_inside _ _ _ i (by rwa [State.dataBytes_length])]
    exact congrArg some (Memory.readRegion_getElem _ _ _ _ i _)
  | true =>
    have hstart := (hp.desInput hin st).dataStart_toNat
    refine ⟨_, hp.exec_inPlace hin st, rfl, rfl, rfl, rfl, rfl, rfl, rfl, nofun, fun _ => hstart,
      fun i hi => ?_⟩
    obtain ⟨_, _, _, _, hdata, _⟩ := serOutput_getElem? s hb (16 + i)
    rw [State.reported_buf, State.reported_dataPtr, State.decoded_buf, State.decoded_dataPtr,
      hstart, Nat.add_assoc, hp.cells _ (by unfold wireSize; omega), hdata (by omega) (by omega),
      Nat.add_sub_cancel_left]

end Sys2Proof.Machine

/-! # The deserializer (spec/41_deserializer.md)

The four forms of DES from any state: one equation for each outcome, in the order of R137, and one
inversion; what the copy puts into BUF; and the pad by its cases. -/

namespace Sys2Proof.Machine

/-! ## The outcomes of DES -/

section
variable {a st : Bool} {s : State}

/-- A check of DES that fails without an error value of the Header Codec changes nothing but STATUS
(R134). -/
theorem exec_desForm_of_error {c : StatusCode}
    (hr : desResult s.params a st s = .error ⟨c, none⟩) :
    exec (desForm a st) s = .next (s.reported c.bits s.wireLen.toNat) := by
  rw [exec_desForm, hr]
  rfl

theorem exec_desForm_inputFault (h : ¬ inBounds s.params s.wirePtr.toNat s.wireLen.toNat) :
    exec (desForm a st) s = .next (s.reported 7#4 s.wireLen.toNat) :=
  exec_desForm_of_error (c := .bufferFault) (if_neg h)

variable (hin : inBounds s.params s.wirePtr.toNat s.wireLen.toNat)
include hin

theorem exec_desForm_headerError {e : BitVec s.params.hdrErrW}
    (h : s.params.hc.parse s.wireBytes = .error e) :
    exec (desForm a st) s =
      .next ({ s with hdrErr := e.setWidth 32 }.reported 6#4 s.wireLen.toNat) := by
  have hr : desResult s.params a st s = .error ⟨.headerError, some (e.setWidth 32)⟩ := by
    rw [desResult, headerParse, if_pos hin, h]
  rw [exec_desForm, hr]
  rfl

variable {h : Header} (hparse : s.params.hc.parse s.wireBytes = .ok h)
include hparse

/-- An accepted header leaves DES at its length checks (R114). -/
theorem desResult_of_parsed :
    desResult s.params a st s = desBody s.params a st s h s.wireBytes := by
  rw [desResult, headerParse, if_pos hin, hparse]

theorem exec_desForm_packetTooShort (hshort : s.wireLen.toNat < 16) :
    exec (desForm a st) s = .next (s.reported 3#4 s.wireLen.toNat) :=
  exec_desForm_of_error (c := .packetTooShort) <| by
    rw [desResult_of_parsed hin hparse, desBody, State.wireBytes_length, if_pos hshort]

variable (hlong : 16 ≤ s.wireLen.toNat)
include hlong

theorem exec_desForm_invalidLength (hne : (h.length.toNat + 1) * 4 ≠ s.wireLen.toNat) :
    exec (desForm a st) s = .next (s.reported 4#4 s.wireLen.toNat) :=
  exec_desForm_of_error (c := .invalidLength) <| by
    rw [desResult_of_parsed hin hparse, desBody, State.wireBytes_length,
      if_neg (Nat.not_lt.2 hlong), if_pos hne]

theorem exec_desForm_wrongPadding (hmatch : (h.length.toNat + 1) * 4 = s.wireLen.toNat)
    (hpad : ∀ p, ¬ padAccepted st h s.wireBytes p) :
    exec (desForm a st) s = .next (s.reported 5#4 s.wireLen.toNat) :=
  exec_desForm_of_error (c := .wrongPadding) <| by
    obtain ⟨p, hp, _⟩ | ⟨_, herr⟩ := desPad_cases st h s.wireBytes
    · exact absurd hp (hpad p)
    · rw [desResult_of_parsed hin hparse, desBody, State.wireBytes_length,
        if_neg (Nat.not_lt.2 hlong), if_neg (not_not.2 hmatch), herr]

end

/-! ## The packet DES delivers -/

/-- The data bytes of an input with pad `p` (R121). -/
def State.desData (s : State) (p : Nat) : List Byte :=
  (s.wireBytes.drop 16).take (s.wireLen.toNat - 16 - p)

/-- The state of a packet decoded with header `h` and pad `p`: its fields loaded, and its data pointed
at with A = 1 (R123), copied to DATA_PTR with A = 0 (R122). -/
def State.desDelivered (a : Bool) (s : State) (h : Header) (p : Nat) : State :=
  { desFields s h s.wireBytes (s.wireLen.toNat - 16 - p) with
    dataPtr := if a then s.wirePtr + 16#32 else s.dataPtr
    buf := if a then s.buf else s.buf.store s.dataPtr.toNat (s.desData p) }

@[simp] theorem State.reported_dataLen (s : State) (c : BitVec 4) (n : Nat) :
    (s.reported c n).dataLen = s.dataLen := rfl

section
variable (a : Bool) (s : State) (h : Header) (p : Nat)

@[simp] theorem State.desDelivered_dataLen :
    (s.desDelivered a h p).dataLen = BitVec.ofNat 32 (s.wireLen.toNat - 16 - p) := rfl

/-- A data length never exceeds WIRE_LEN, so it fits DATA_LEN. -/
theorem State.desDelivered_dataLen_toNat :
    (s.desDelivered a h p).dataLen.toNat = s.wireLen.toNat - 16 - p := by
  have := s.wireLen.isLt
  rw [State.desDelivered_dataLen, BitVec.toNat_ofNat]
  omega

@[simp] theorem State.desData_length : (s.desData p).length = s.wireLen.toNat - 16 - p := by
  simp [State.desData]

/-- The data starts 16 bytes into the input (R121). -/
theorem State.desData_getElem? {i : Nat} (hi : i < s.wireLen.toNat - 16 - p) :
    (s.desData p)[i]? = s.wireBytes[16 + i]? := by
  rw [State.desData, List.getElem?_take_of_lt hi, List.getElem?_drop]

theorem State.desDelivered_cell {i : Nat} (hi : i < s.wireLen.toNat - 16 - p) :
    (s.desDelivered false h p).buf.cell (s.dataPtr.toNat + i) = s.wireBytes[16 + i]? := by
  have hlen : i < (s.desData p).length := by rwa [State.desData_length]
  rw [← State.desData_getElem? s p hi, List.getElem?_eq_getElem hlen]
  exact Memory.cell_store_inside s.buf _ _ i hlen

theorem State.desDelivered_cell_outside {x : Nat}
    (hx : x < s.dataPtr.toNat ∨ s.dataPtr.toNat + (s.wireLen.toNat - 16 - p) ≤ x) :
    (s.desDelivered false h p).buf.cell x = s.buf.cell x :=
  Memory.cell_store_outside s.buf _ _ x (by rwa [State.desData_length])

end

section
variable {a st : Bool} {s : State} {h : Header} {p : Nat} (hi : s.DesInput st h p)
include hi

/-- DES past all its checks (R122, R123, R124). -/
theorem exec_desForm_delivered
    (hd : a = false → inBounds s.params s.dataPtr.toNat (s.wireLen.toNat - 16 - p)) :
    exec (desForm a st) s = .next ((s.desDelivered a h p).reported 0#4 s.wireLen.toNat) := by
  cases a with
  | false => exact exec_desForm_copied hi (hd rfl)
  | true => exact exec_desForm_inPlace hi

/-- DES with A = 0 past its checks of the input, the destination out of bounds (R122). -/
theorem exec_desForm_destinationFault
    (hd : ¬ inBounds s.params s.dataPtr.toNat (s.wireLen.toNat - 16 - p)) :
    exec (desForm false st) s = .next (s.reported 7#4 s.wireLen.toNat) :=
  exec_desForm_of_error (c := .bufferFault) <|
    (desResult_input false st s h p hi).trans (if_neg hd)

/-- DES past its checks of the input delivers the packet, or A = 0 and the destination is out of
bounds. -/
theorem exec_desForm_input_cases (a : Bool) : ∃ t, exec (desForm a st) s = .next t ∧
    (t = (s.desDelivered a h p).reported 0#4 s.wireLen.toNat ∨
      a = false ∧ t = s.reported 7#4 s.wireLen.toNat) := by
  by_cases hd : a = false → inBounds s.params s.dataPtr.toNat (s.wireLen.toNat - 16 - p)
  · exact ⟨_, exec_desForm_delivered hi hd, .inl rfl⟩
  · obtain ⟨rfl, hout⟩ := Classical.not_imp.1 hd
    exact ⟨_, exec_desForm_destinationFault hi hout, .inr ⟨rfl, rfl⟩⟩

/-- Past its checks of the input DES no longer reports WRONG_PADDING, and the data is what the pad
leaves of the bytes after the fixed 16 (R121). -/
theorem exec_desForm_input_dataLen (a : Bool) : ∃ t, exec (desForm a st) s = .next t ∧
    t.code ≠ 5#4 ∧ (t.code = 0#4 → t.dataLen.toNat = s.wireLen.toNat - 16 - p) := by
  obtain ⟨t, hexec, rfl | ⟨_, rfl⟩⟩ := exec_desForm_input_cases hi a
  · exact ⟨_, hexec, by simp, fun _ => State.desDelivered_dataLen_toNat a s h p⟩
  · exact ⟨_, hexec, by simp, by simp⟩

end

/-- A completion of DES from `s` that one of its checks stopped: nothing but STATUS has changed, and
HDR_ERR with HEADER_ERROR; and the codes of R114 and R113 are reported for their cause only. -/
structure State.DesFailed (a : Bool) (s t : State) : Prop where
  failed        : t.code ≠ 0#4
  reportOnly    : t = { s with hdrErr := t.hdrErr }.reported t.code s.wireLen.toNat
  hdrErrKept    : t.code ≠ 6#4 → t.hdrErr = s.hdrErr
  headerRefused : t.code = 6#4 → ∃ e, s.params.hc.parse s.wireBytes = .error e
  faultInBounds : t.code = 7#4 → inBounds s.params s.wirePtr.toNat s.wireLen.toNat → a = false

/-- DES delivers the packet or fails at a check, in the order of R137. -/
theorem exec_desForm_cases (a st : Bool) (s : State) : ∃ t, exec (desForm a st) s = .next t ∧
    ((∃ h p, s.DesInput st h p ∧
        t = (s.desDelivered a h p).reported 0#4 s.wireLen.toNat) ∨
      s.DesFailed a t) := by
  obtain ⟨hin, _⟩ | ⟨hin, e, he, _⟩ | ⟨hin, h, hparse, ⟨hshort, _⟩ | ⟨hlong, hne, _⟩ |
    ⟨hlong, hmatch, hpad, _⟩ | ⟨hlong, hmatch, p, hp, _⟩⟩ := desResult_cases s.params a st s
  · exact ⟨_, exec_desForm_inputFault hin,
      .inr ⟨by simp, rfl, fun _ => rfl, by simp, fun _ h => absurd h hin⟩⟩
  · exact ⟨_, exec_desForm_headerError hin he,
      .inr ⟨by simp, rfl, by simp, fun _ => ⟨e, he⟩, by simp⟩⟩
  · exact ⟨_, exec_desForm_packetTooShort hin hparse hshort,
      .inr ⟨by simp, rfl, fun _ => rfl, by simp, by simp⟩⟩
  · exact ⟨_, exec_desForm_invalidLength hin hparse hlong hne,
      .inr ⟨by simp, rfl, fun _ => rfl, by simp, by simp⟩⟩
  · exact ⟨_, exec_desForm_wrongPadding hin hparse hlong hmatch hpad,
      .inr ⟨by simp, rfl, fun _ => rfl, by simp, by simp⟩⟩
  · have hi : s.DesInput st h p := ⟨hin, hparse, hlong, hmatch, hp⟩
    obtain ⟨t, hexec, rfl | ⟨rfl, rfl⟩⟩ := exec_desForm_input_cases hi a
    · exact ⟨_, hexec, .inl ⟨h, p, hi, rfl⟩⟩
    · exact ⟨_, hexec, .inr ⟨by simp, rfl, fun _ => rfl, by simp, fun _ _ => rfl⟩⟩

/-! ## The checks of the input -/

/-- Settles O24: the bounds check comes first, and the input is `Memory.readRegion`, byte by byte. -/
theorem desChecksInputBoundsFirst : Obligations.DesChecksInputBoundsFirst := by
  refine fun a st s => ⟨fun hout => exec_desForm_inputFault fun hin => ?_, State.wireBytes_length s,
    fun i hi => Memory.readRegion_getElem? s.buf s.draws _ _ i hi⟩
  simp only [inBounds] at hin
  omega

/-- HC-L1 on the input of DES (R114). -/
theorem parse_wireBytes_locality (s : State) (h : 4 ≤ s.wireLen.toNat) :
    s.params.hc.parse s.wireBytes = s.params.hc.parse (s.wireBytes.take 4) :=
  s.params.hc.locality _ (by rwa [State.wireBytes_length])

/-- Settles O25: the equation for a refused header, the cause of HEADER_ERROR, and HC-L1. -/
theorem desReportsHeaderError : Obligations.DesReportsHeaderError := by
  refine fun a st s hin => ⟨fun e he => exec_desForm_headerError hin he, fun h hparse => ?_,
    parse_wireBytes_locality s⟩
  obtain ⟨t, hexec, ⟨_, _, _, rfl⟩ | hfail⟩ := exec_desForm_cases a st s
  · exact ⟨_, hexec, by simp, rfl⟩
  · have hcode : t.code ≠ 6#4 := fun h6 => by
      obtain ⟨e, he⟩ := hfail.headerRefused h6
      rw [hparse] at he
      cases he
    exact ⟨t, hexec, hcode, hfail.hdrErrKept hcode⟩

/-- Settles O26: a declared length is a multiple of 4 and at most 262144, so an input of any other
length differs from it. -/
theorem desChecksLengths : Obligations.DesChecksLengths := by
  refine fun a st s h hin hparse => ⟨exec_desForm_packetTooShort hin hparse,
    exec_desForm_invalidLength hin hparse, fun hbad => ?_⟩
  have := h.length.isLt
  exact exec_desForm_invalidLength hin hparse (by omega) (by omega)

/-! ## The pad -/

section
variable {st : Bool} {h : Header} {input : List Byte} {p : Nat}

theorem padAccepted_iff_of_flag (hf : h.paddingFlag = true) : padAccepted st h input p ↔
    p = (input.getD (input.length - 1) 0).toNat ∧ p ≤ input.length - 16 ∧
      (st = true → ∀ i, input.length - p ≤ i → i < input.length →
        (input.getD i 0).toNat = p) := by
  rw [padAccepted, if_pos hf]

theorem padAccepted_iff_of_no_flag (hf : h.paddingFlag = false) :
    padAccepted st h input p ↔ p = 0 := by
  rw [padAccepted, if_neg (by simp [hf])]

/-- S = 1 accepts what S = 0 accepts, when no byte of the padding differs from the pad (R120). -/
theorem padAccepted_strict_iff : padAccepted true h input p ↔ padAccepted false h input p ∧
    (h.paddingFlag = false ∨
      ∀ i, input.length - p ≤ i → i < input.length → (input.getD i 0).toNat = p) := by
  cases hf : h.paddingFlag with
  | false => simp [padAccepted_iff_of_no_flag hf]
  | true => simp [padAccepted_iff_of_flag hf, and_assoc]

end

/-- Settles O27: with the flag set the last byte is the only pad there is, with it clear the pad is 0. -/
theorem desBoundsThePadByte : Obligations.DesBoundsThePadByte := by
  refine fun a st s h hin hparse hlong hmatch => ⟨fun hf hbig => ?_, fun hf hle => ?_, fun hf => ?_⟩
  · refine exec_desForm_wrongPadding hin hparse hlong hmatch fun p hp => ?_
    obtain ⟨hlast, hle, _⟩ := (padAccepted_iff_of_flag hf).1 hp
    rw [State.wireBytes_length] at hlast hle
    omega
  · have hpad : padAccepted false h s.wireBytes
        (s.wireBytes.getD (s.wireLen.toNat - 1) 0).toNat := by
      rw [padAccepted_iff_of_flag hf, State.wireBytes_length]
      exact ⟨rfl, hle, nofun⟩
    exact exec_desForm_input_dataLen ⟨hin, hparse, hlong, hmatch, hpad⟩ a
  · have hpad : padAccepted st h s.wireBytes 0 := (padAccepted_iff_of_no_flag hf).2 rfl
    exact exec_desForm_input_dataLen ⟨hin, hparse, hlong, hmatch, hpad⟩ a

/-- Settles O28: by `padAccepted_strict_iff`, S = 1 refuses the input or accepts it with the same
pad, and then delivers the same. -/
theorem strictPaddingChecksEveryByte : Obligations.StrictPaddingChecksEveryByte := by
  intro a s h p hi
  have hstrict := padAccepted_strict_iff (h := h) (input := s.wireBytes) (p := p)
  rw [State.wireBytes_length] at hstrict
  refine ⟨?_, fun hf ⟨i, hlo, hhi, hne⟩ => ?_, fun hsame => ?_⟩
  · obtain ⟨t, hexec, hcode, _⟩ := exec_desForm_input_dataLen hi a
    exact ⟨t, hexec, hcode⟩
  · refine exec_desForm_wrongPadding hi.bounded hi.parsed hi.long hi.matched fun q hq => ?_
    obtain rfl := padAccepted_unique _ _ h s.wireBytes q p hq hi.padded
    obtain ⟨_, hclear | hall⟩ := hstrict.1 hq
    · rw [hf] at hclear
      cases hclear
    · exact hne (hall i hlo hhi)
  · have hi' : s.DesInput true h p :=
      ⟨hi.bounded, hi.parsed, hi.long, hi.matched, hstrict.2 ⟨hi.padded, hsame⟩⟩
    rw [exec_desForm, exec_desForm, desResult_input _ _ s h p hi, desResult_input _ _ s h p hi']

/-! ## The packet -/

/-- Settles O29: the two outcomes with A = 0, and the cells of the copy. -/
theorem desCopiesThePacket : Obligations.DesCopiesThePacket := by
  refine fun st s h p hi => ⟨fun hout => exec_desForm_destinationFault hi fun hd => ?_, fun hd =>
    ⟨_, exec_desForm_delivered hi fun _ => hd, rfl, State.desDelivered_dataLen_toNat false s h p,
      fun i => State.desDelivered_cell s h p, fun x => State.desDelivered_cell_outside s h p⟩⟩
  simp only [inBounds] at hd
  omega

/-- Settles O30: the outcome with A = 1, and that a BUFFER_FAULT with the input in bounds is one of
A = 0. -/
theorem desAliasesThePacket : Obligations.DesAliasesThePacket := by
  refine ⟨fun st s h p hi => ⟨exec_desForm_inPlace hi, hi.dataStart_toNat⟩, fun st s hin => ?_⟩
  obtain ⟨t, hexec, ⟨_, _, _, rfl⟩ | hfail⟩ := exec_desForm_cases true st s
  · exact ⟨_, hexec, by simp⟩
  · exact ⟨t, hexec, fun h7 => nomatch hfail.faultInBounds h7 hin⟩

/-- BE32 of the bytes at index `i`, by value (R11). -/
theorem wordAt_toNat (bs : List Byte) (i : Nat) : (wordAt bs i).toNat =
    (bs.getD i 0).toNat * 2 ^ 24 + (bs.getD (i + 1) 0).toNat * 2 ^ 16 +
      (bs.getD (i + 2) 0).toNat * 2 ^ 8 + (bs.getD (i + 3) 0).toNat :=
  ofBE_toNat _ _ _ _

/-- Settles O31: the fields of the delivered packet are `wordAt` at offsets 4, 8 and 12. -/
theorem desLoadsTheFields : Obligations.DesLoadsTheFields := by
  intro a st s h p hi hd
  refine ⟨_, (s.wireBytes.getD · 0), exec_desForm_delivered hi hd, rfl, fun k hk => ?_, rfl,
    wordAt_toNat s.wireBytes 4, wordAt_toNat s.wireBytes 8, wordAt_toNat s.wireBytes 12, rfl,
    State.desDelivered_dataLen_toNat a s h p⟩
  have hlt : k < s.wireBytes.length := by
    rw [State.wireBytes_length]
    exact Nat.lt_of_lt_of_le hk hi.long
  change _ = some (s.wireBytes.getD k 0)
  rw [List.getElem?_eq_getElem hlt, List.getD_eq_getElem _ _ hlt]

/-- Settles O32: a delivered packet changes BUF with A = 0 in the destination alone, a failure
nowhere. -/
theorem desFrame : Obligations.DesFrame := by
  intro a st s
  obtain ⟨t, hexec, ⟨h, p, _, rfl⟩ | hfail⟩ := exec_desForm_cases a st s
  · refine ⟨_, hexec, rfl, rfl, rfl, rfl, rfl, rfl, fun _ => rfl, ?_, ?_⟩
    · rintro rfl
      refine ⟨rfl, fun x hx => State.desDelivered_cell_outside s h p ?_⟩
      rwa [State.reported_dataLen, State.desDelivered_dataLen_toNat] at hx
    · rintro (rfl | hcode)
      · exact fun _ => rfl
      · exact absurd rfl hcode
  · have hkept := hfail.hdrErrKept
    rw [hfail.reportOnly] at hexec hkept
    exact ⟨_, hexec, rfl, rfl, rfl, rfl, rfl, rfl, hkept, fun _ => ⟨rfl, fun _ _ => rfl⟩,
      fun _ _ => rfl⟩

/-- Settles O33: an OK answer is a delivered packet, whose input passed every check. -/
theorem acceptedInputBounds : Obligations.AcceptedInputBounds := by
  intro a st s
  obtain ⟨t, hexec, ⟨h, p, hi, rfl⟩ | hfail⟩ := exec_desForm_cases a st s
  · refine ⟨_, hexec, fun _ => ⟨h, p, hi.parsed, hi.padded, ?_⟩⟩
    have hmatch := hi.matched
    have hdecl := h.length.isLt
    obtain ⟨hple, hp255⟩ := padAccepted_le st h s.wireBytes p hi.padded
    rw [State.wireBytes_length] at hple
    rw [State.reported_dataLen, State.desDelivered_dataLen_toNat]
    exact ⟨by omega, hi.long, by omega, hp255, hple, rfl, by omega, hmatch⟩
  · exact ⟨t, hexec, fun hcode => absurd hcode hfail.failed⟩

/-! ## Short inputs -/

/-- HC_REF refuses fewer than 4 bytes (R91). -/
theorem hcRefParse_of_short : ∀ {bs : List Byte}, bs.length < 4 → hcRefParse bs = .error 0x01#8
  | [], _ | [_], _ | [_, _], _ | [_, _, _], _ => rfl
  | _ :: _ :: _ :: _ :: _, h => absurd h (by simp)

/-- The version of an HC_REF header by the number of its first byte (R90). -/
theorem version_eq_two_iff (b : Byte) : b.extractLsb' 6 2 = 2#2 ↔ b.toNat / 64 = 2 := by
  have hlt : b.toNat / 64 < 2 ^ 2 := by omega
  rw [← BitVec.toNat_inj, BitVec.extractLsb'_toNat, Nat.shiftRight_eq_div_pow,
    Nat.mod_eq_of_lt hlt]
  rfl

/-- HC_REF accepts 4 bytes or more exactly when the version is 2 (R91). -/
theorem hcRefParse_ok_iff : ∀ {bs : List Byte}, 4 ≤ bs.length →
    ((∃ h, hcRefParse bs = .ok h) ↔ (bs.getD 0 0).toNat / 64 = 2)
  | b0 :: _ :: _ :: _ :: _, _ => by
    rw [List.getD_cons_zero, ← version_eq_two_iff]
    by_cases hv : b0.extractLsb' 6 2 = 2#2 <;> simp [hcRefParse, hv]

section
variable {P : Params} (hP : P = Params.reference) {bs : List Byte}
include hP

theorem parse_reference_of_short (h : bs.length < 4) :
    ∃ e, P.hc.parse bs = .error e ∧ e.setWidth 32 = 1#32 := by
  subst hP
  exact ⟨0x01#8, hcRefParse_of_short h, rfl⟩

theorem parse_reference_ok_iff (h : 4 ≤ bs.length) :
    (∃ hdr, P.hc.parse bs = .ok hdr) ↔ (bs.getD 0 0).toNat / 64 = 2 := by
  subst hP
  exact hcRefParse_ok_iff h

end

/-- Settles O35: the two answers of HC.parse, and for HC_REF which of them it gives. -/
theorem shortInputOutcome : Obligations.ShortInputOutcome := by
  intro a st s hin hshort
  have hlocal := parse_wireBytes_locality s
  have hparams (hset : s.setting = .reference) : s.params = Params.reference :=
    State.params_congr (t := { s with setting := .reference }) hset
  have hfew (hset : s.setting = .reference) (hlt : s.wireLen.toNat < 4) :=
    parse_reference_of_short (hparams hset) (s.wireBytes_length.trans_lt hlt)
  have henough (hset : s.setting = .reference) (hge : 4 ≤ s.wireLen.toNat) :=
    parse_reference_ok_iff (hparams hset) (hge.trans_eq s.wireBytes_length.symm)
  cases hparse : s.params.hc.parse s.wireBytes with
  | error e =>
    rw [hparse] at hlocal hfew henough
    refine ⟨_, exec_desForm_headerError hin hparse, rfl, hlocal, fun hset hlt => ⟨rfl, ?_⟩,
      fun hset hge => ?_⟩
    · obtain ⟨e', he, hone⟩ := hfew hset hlt
      cases he
      exact hone
    · rw [← henough hset hge]
      simp
  | ok h =>
    rw [hparse] at hlocal hfew henough
    refine ⟨_, exec_desForm_packetTooShort hin hparse hshort, rfl, hlocal, fun hset hlt => ?_,
      fun hset hge => ?_⟩
    · obtain ⟨_, he, _⟩ := hfew hset hlt
      cases he
    · rw [← henough hset hge]
      simp

end Sys2Proof.Machine

/-! # Commands and completions (spec/60_exceptions.md)

The issue step over the bus; one inversion for how a completion ends (`State.EndsIn`), from which the
statements on what a completion writes follow; and which code SER and DES report. -/

namespace Sys2Proof.Machine

/-! ## The command a step runs -/

/-- Settles O4: `step_of_decoded`. -/
theorem stepRunsTheDecodedCommand : Obligations.StepRunsTheDecodedCommand :=
  fun s i h hd => step_of_decoded s i h hd

/-- A table row of 32 bits gives the word of its number (R75). -/
theorem tableWord_toNat (w : Word) : tableWord 32 w.toNat = w := by
  rw [tableWord, Nat.mod_eq_of_lt w.isLt, BitVec.ofNat_toNat, BitVec.setWidth_eq]

/-- Settles O5: the placed state completes next, and what it completes is the encoding of `i`. -/
theorem placedWordIsRunNext : Obligations.PlacedWordIsRunNext := by
  intro s i
  have hcur : (s.withFetchWord 32 (encode i).toNat).cur = encode i := tableWord_toNat (encode i)
  have hd : decode (s.withFetchWord 32 (encode i).toNat).cur = .ok i := by
    rw [hcur, decode_encode]
  rw [step_of_decoded _ i ⟨rfl, rfl, rfl⟩ hd, State.withFetchWord, tableWord_toNat]
  rfl

/-! ## The issue step -/

/-- A step in which the Host writes CMD (R32): no hazard can arise. -/
theorem step_of_cmdWrite {s : State} {w : Word} (h : s.hostNext (.write 32 0x000 w)) :
    step s = .next ((s.popTurn.writeCmd w).respond .written) :=
  step_of_regWrite .cmd h (Bool.and_false _)

theorem State.writeCmd_of_idle {s : State} {w : Word} (h : s.busy = false) :
    s.writeCmd w = s.issue w := if_neg (by simp [h])

theorem State.writeCmd_of_busy {s : State} {w : Word} (h : s.busy = true) :
    s.writeCmd w = { s with ovr := true } := if_pos h

/-- Settles O37: a CMD write issues or sets OVR, by BUSY. -/
theorem cmdWriteIssuesWhenIdle : Obligations.CmdWriteIssuesWhenIdle := by
  refine fun s w h => ⟨fun hidle => ?_, fun hbusy => ?_⟩
  · rw [step_of_cmdWrite h, State.writeCmd_of_idle (s := s.popTurn) hidle]
    rfl
  · rw [step_of_cmdWrite h, State.writeCmd_of_busy (s := s.popTurn) hbusy]
    rfl

/-! ## How a completion ends -/

/-- What a command that ends with OK leaves as it was: everything but the field registers, BUF and
what the status report writes. -/
structure State.SameControl (s t : State) : Prop where
  ovr      : t.ovr = s.ovr
  ie       : t.ie = s.ie
  hdrErr   : t.hdrErr = s.hdrErr
  cur      : t.cur = s.cur
  faults   : t.faults = s.faults
  schedule : t.schedule = s.schedule
  response : t.response = s.response
  setting  : t.setting = s.setting

/-- The Header Codec refuses with `e` the header that SER builds or the input of a form of DES, as the
decoded word `d` has it (R102, R114). -/
def State.HeaderRefused (s : State) (d : Except BadWord Instr) (e : BitVec s.params.hdrErrW) :
    Prop :=
  (d = .ok .ser ∧ s.params.hc.ser (serHeader s.params s) = .error e) ∨
    ∃ a st, d = .ok (desForm a st) ∧ s.params.hc.parse s.wireBytes = .error e

/-- The ends of a completion of the decoded word `d` from `s` (R133 to R135): OK; an error that writes
STATUS alone; and HEADER_ERROR, which writes the Header Codec's error into HDR_ERR too. -/
inductive State.EndsIn (s : State) (d : Except BadWord Instr) : State → Prop
  | ok (t : State) (n : Nat) (same : s.SameControl t) : s.EndsIn d (t.reported 0#4 n)
  | failed (c : StatusCode) (n : Nat) (notOk : c ≠ .ok) (notHeader : c ≠ .headerError) :
      s.EndsIn d (s.reported c.bits n)
  | headerError (e : BitVec s.params.hdrErrW) (n : Nat) (refused : s.HeaderRefused d e) :
      s.EndsIn d ({ s with hdrErr := e.setWidth 32 }.reported 6#4 n)

theorem exec_ser_endsIn (s : State) : ∃ t, exec .ser s = .next t ∧ s.EndsIn (.ok .ser) t := by
  obtain ⟨hbig, _⟩ | ⟨hcap, hname, _⟩ | ⟨hcap, hname, e, he, _⟩ | ⟨hcap, hname, hb, hhead, hout, _⟩ |
    ⟨hcap, hname, hb, hhead, ⟨hdata, hwire⟩, _⟩ := serResult_cases s.params s
  · exact ⟨_, exec_ser_dataTooLarge hbig, .failed .dataTooLarge _ nofun nofun⟩
  · exact ⟨_, exec_ser_invalidName hcap hname, .failed .invalidName _ nofun nofun⟩
  · exact ⟨_, exec_ser_headerError hcap hname he, .headerError e _ (.inl ⟨rfl, he⟩)⟩
  · exact ⟨_, exec_ser_bufferFault hcap hname hhead hout, .failed .bufferFault _ nofun nofun⟩
  · exact ⟨_, exec_ser_written ⟨hcap, hname, hhead, hdata, hwire⟩,
      .ok _ _ ⟨rfl, rfl, rfl, rfl, rfl, rfl, rfl, rfl⟩⟩

theorem exec_desForm_endsIn (a st : Bool) (s : State) :
    ∃ t, exec (desForm a st) s = .next t ∧ s.EndsIn (.ok (desForm a st)) t := by
  obtain ⟨hin, _⟩ | ⟨hin, e, he, _⟩ | ⟨hin, h, hparse, ⟨hshort, _⟩ | ⟨hlong, hne, _⟩ |
    ⟨hlong, hmatch, hpad, _⟩ | ⟨hlong, hmatch, p, hp, _⟩⟩ := desResult_cases s.params a st s
  · exact ⟨_, exec_desForm_inputFault hin, .failed .bufferFault _ nofun nofun⟩
  · exact ⟨_, exec_desForm_headerError hin he, .headerError e _ (.inr ⟨a, st, rfl, he⟩)⟩
  · exact ⟨_, exec_desForm_packetTooShort hin hparse hshort, .failed .packetTooShort _ nofun nofun⟩
  · exact ⟨_, exec_desForm_invalidLength hin hparse hlong hne, .failed .invalidLength _ nofun nofun⟩
  · exact ⟨_, exec_desForm_wrongPadding hin hparse hlong hmatch hpad,
      .failed .wrongPadding _ nofun nofun⟩
  · obtain ⟨t, hexec, rfl | ⟨_, rfl⟩⟩ :=
      exec_desForm_input_cases (st := st) ⟨hin, hparse, hlong, hmatch, hp⟩ a
    · exact ⟨_, hexec, .ok _ _ ⟨rfl, rfl, rfl, rfl, rfl, rfl, rfl, rfl⟩⟩
    · exact ⟨_, hexec, .failed .bufferFault _ nofun nofun⟩

/-- Every command from every state ends in one of the three ways. -/
theorem exec_endsIn (i : Instr) (s : State) : ∃ t, exec i s = .next t ∧ s.EndsIn (.ok i) t := by
  obtain rfl | rfl | ⟨a, st, rfl⟩ := instr_cases i
  · exact ⟨_, exec_size_eq s, .ok _ _ ⟨rfl, rfl, rfl, rfl, rfl, rfl, rfl, rfl⟩⟩
  · exact exec_ser_endsIn s
  · exact exec_desForm_endsIn a st s

/-- Every completion that no hazard write has hit ends in one of the three ways, a reserved word's
with BAD_COMMAND (R74). -/
theorem step_endsIn {s : State} (h : s.completesNext) :
    ∃ t, step s = .next t ∧ s.popTurn.EndsIn (decode s.cur) t := by
  cases hd : decode s.cur with
  | ok i =>
    rw [step_of_decoded s i h hd]
    exact exec_endsIn i s.popTurn
  | error e => exact ⟨_, step_of_reserved s e h hd, .failed .badCommand 0 nofun nofun⟩

/-- Settles O9: each of the three ends is a status report, on a state that differs at most in the
field registers, BUF and HDR_ERR. -/
theorem everyCommandReportsCompletion : Obligations.EveryCommandReportsCompletion := by
  intro i s
  obtain ⟨t, hexec, hend⟩ := exec_endsIn i s
  cases hend with
  | ok t n same =>
    exact ⟨_, hexec, rfl, rfl, StatusCode.bits_le .ok, same.ovr, same.ie, same.cur, same.faults,
      same.schedule, same.response, same.setting⟩
  | failed c n _ _ =>
    exact ⟨_, hexec, rfl, rfl, c.bits_le, rfl, rfl, rfl, rfl, rfl, rfl, rfl⟩
  | headerError e n _ =>
    exact ⟨_, hexec, rfl, rfl, StatusCode.bits_le .headerError, rfl, rfl, rfl, rfl, rfl, rfl, rfl⟩

/-- Settles O10: the two ends that report an error are what it states. -/
theorem failedCommandWritesOnlyStatus : Obligations.FailedCommandWritesOnlyStatus := by
  intro s h
  obtain ⟨t, hstep, hend⟩ := step_endsIn h
  cases hend with
  | ok t n _ => exact ⟨_, n, hstep, fun h0 => absurd rfl h0, nofun⟩
  | failed c n _ notHeader =>
    exact ⟨_, n, hstep, fun _ _ => rfl, fun h6 => absurd (c.bits_inj .headerError h6) notHeader⟩
  | headerError e n _ => exact ⟨_, n, hstep, fun _ h6 => absurd rfl h6, fun _ => rfl⟩

/-- HDR_ERR holds the Header Codec's error whole (R6, R40). -/
theorem hdrErr_toNat {P : Params} (e : BitVec P.hdrErrW) : (e.setWidth 32).toNat = e.toNat := by
  obtain ⟨_, hw⟩ := P.hdrErrW_range
  exact BitVec.toNat_setWidth_of_le hw

/-- Settles O11: only the end with HEADER_ERROR writes HDR_ERR, with the error it names. -/
theorem hdrErrHoldsTheCodecError : Obligations.HdrErrHoldsTheCodecError := by
  intro s h
  obtain ⟨t, hstep, hend⟩ := step_endsIn h
  cases hend with
  | ok t n same => exact ⟨_, hstep, fun _ => same.hdrErr, nofun⟩
  | failed c n _ notHeader =>
    exact ⟨_, hstep, fun _ => rfl, fun h6 => absurd (c.bits_inj .headerError h6) notHeader⟩
  | headerError e n refused =>
    exact ⟨_, hstep, fun h6 => absurd rfl h6, fun _ => ⟨e, hdrErr_toNat e, refused⟩⟩

/-! ## Which code is reported -/

theorem code_of_exec {i : Instr} {s t u : State} {c : BitVec 4} {n : Nat}
    (ht : exec i s = .next t) (h : exec i s = .next (u.reported c n)) : t.code = c := by
  rw [ht] at h
  cases h
  rfl

/-- The bounds of both regions as R58 writes them; the wire region is never empty. -/
theorem State.serBounded_iff (s : State) : s.serBounded ↔
    (s.dataLen.toNat = 0 ∨ s.dataPtr.toNat + s.dataLen.toNat ≤ s.params.bufSize) ∧
      s.wirePtr.toNat + wireSize s.dataLen.toNat ≤ s.params.bufSize := by
  have hwire : wireSize s.dataLen.toNat ≠ 0 := by
    rw [wireSize_eq_words]
    omega
  simp [State.serBounded, inBounds, hwire]

/-- Settles O21: each branch of the order is one outcome of SER. -/
theorem serErrorPriority : Obligations.SerErrorPriority := by
  intro s
  obtain ⟨t, ht, _⟩ := exec_ser_endsIn s
  refine ⟨t, ht, ?_⟩
  split
  next hcap => exact code_of_exec ht (exec_ser_dataTooLarge hcap)
  next hcap =>
    have hcap := Nat.not_lt.1 hcap
    split
    next hname => exact code_of_exec ht (exec_ser_invalidName hcap hname)
    next hname =>
      have hname := not_not.1 hname
      split
      next e hhead => exact code_of_exec ht (exec_ser_headerError hcap hname hhead)
      next hb hhead =>
        split
        next hbound =>
          obtain ⟨hdata, hwire⟩ := s.serBounded_iff.2 hbound
          exact code_of_exec ht (exec_ser_written ⟨hcap, hname, hhead, hdata, hwire⟩)
        next hbound =>
          exact code_of_exec ht
            (exec_ser_bufferFault hcap hname hhead (mt s.serBounded_iff.1 hbound))

/-- Settles O34: each clause is one outcome of DES. -/
theorem desErrorPriority : Obligations.DesErrorPriority := by
  intro a st s
  obtain ⟨t, ht, _⟩ := exec_desForm_endsIn a st s
  refine ⟨t, ht, fun hout => code_of_exec ht (exec_desForm_inputFault hout), fun hin => ?_⟩
  cases hparse : s.params.hc.parse s.wireBytes with
  | error e => exact code_of_exec ht (exec_desForm_headerError hin hparse)
  | ok h =>
    refine ⟨fun hshort => code_of_exec ht (exec_desForm_packetTooShort hin hparse hshort),
      fun hlong hne => code_of_exec ht (exec_desForm_invalidLength hin hparse hlong hne),
      fun hlong hmatch hpad =>
        code_of_exec ht (exec_desForm_wrongPadding hin hparse hlong hmatch hpad),
      fun p hlong hmatch hp => ?_⟩
    have hi : s.DesInput st h p := ⟨hin, hparse, hlong, hmatch, hp⟩
    split_ifs with hfault
    · obtain ⟨rfl, hout⟩ := hfault
      exact code_of_exec ht (exec_desForm_destinationFault hi hout)
    · exact code_of_exec ht (exec_desForm_delivered hi fun ha =>
        not_not.1 fun hout => hfault ⟨ha, hout⟩)

end Sys2Proof.Machine

/-! # Reset and hazards (spec/70_reset_and_hazards.md)

What a reset leaves, of which the power-on state is a case; what an access to an input or a result
of the command in flight does; and the steps of a command in flight up to its completion. -/

namespace Sys2Proof.Machine

/-! ## Reset -/

/-- Every register reads 0 after a reset (R153). -/
@[simp] theorem State.resetBlock_regValue (s : State) (r : Reg) :
    s.resetBlock.regValue r = 0#32 := by
  cases r
  case status => simp [State.regValue, State.statusWord]
  all_goals rfl

/-- Power-on leaves what a reset with an empty fault record leaves (R152, R153). -/
theorem State.reset_resetBlock : State.reset.resetBlock = State.reset := rfl

/-- Settles O53: the step is `resetBlock`, which clears everything but the model's own fields and
the fault record. -/
theorem resetTurnClearsTheBlock : Obligations.ResetTurnClearsTheBlock := fun s hr =>
  ⟨_, step_of_reset s hr, State.resetBlock_regValue _, rfl, rfl, irq_of_not_done rfl,
    Memory.cell_nil, rfl, Nat.le_refl s.draws⟩

/-- Settles O51: the power-on state is one that a reset leaves. -/
theorem resetState : Obligations.ResetState :=
  ⟨State.resetBlock_regValue State.reset, rfl, irq_of_not_done rfl, Memory.cell_nil, rfl⟩

/-- Settles O58: `State.resetBlock_inv`, and the power-on state is one that a reset leaves. -/
theorem resetHasTheInvariant : Obligations.ResetHasTheInvariant :=
  ⟨State.reset_resetBlock ▸ State.resetBlock_inv State.reset, State.resetBlock_inv⟩

/-- With WIRE_LEN = 0 the input of DES is empty. -/
theorem State.wireBytes_eq_nil {s : State} (h : s.wireLen = 0#32) : s.wireBytes = [] :=
  List.length_eq_zero_iff.1 (by rw [State.wireBytes_length, h]; rfl)

/-- Every form of DES on the empty input: HEADER_ERROR with the Header Codec's error when HC.parse
refuses it, and PACKET_TOO_SHORT when it accepts it (R113 to R115, R128). -/
theorem exec_desForm_emptyInput (a st : Bool) {s : State} (h : s.wireLen = 0#32) :
    ∃ t, exec (desForm a st) s = .next t ∧
      (∀ e, s.params.hc.parse [] = .error e → t.code = 6#4 ∧ t.hdrErr = e.setWidth 32) ∧
      ∀ hdr, s.params.hc.parse [] = .ok hdr → t.code = 3#4 := by
  have hlen : s.wireLen.toNat = 0 := by rw [h]; rfl
  rw [← State.wireBytes_eq_nil h]
  cases hparse : s.params.hc.parse s.wireBytes with
  | error e =>
    refine ⟨_, exec_desForm_headerError (.inl hlen) hparse, fun e' he => ?_, nofun⟩
    cases he
    exact ⟨rfl, rfl⟩
  | ok hdr =>
    exact ⟨_, exec_desForm_packetTooShort (.inl hlen) hparse (by omega), nofun, fun _ _ => rfl⟩

/-- Settles O52: SIZE by its equation, SER by NAME_LEN = 0, DES by its empty input, which HC_REF
refuses with error 1 (R91). -/
theorem commandsFromResetValues : Obligations.CommandsFromResetValues := by
  refine ⟨⟨_, exec_size_eq State.reset, rfl, rfl⟩,
    ⟨_, exec_ser_invalidName (s := State.reset) (by decide) (by decide), rfl⟩,
    fun a st => ?_, fun a st => ?_⟩
  · obtain ⟨t, hexec, herr, hok⟩ := exec_desForm_emptyInput a st (s := State.reset) rfl
    refine ⟨t, hexec, ?_⟩
    cases hparse : Config.chip.hc.parse [] with
    | error e => exact herr e hparse
    | ok hdr => exact hok hdr hparse
  · obtain ⟨t, hexec, herr, _⟩ :=
      exec_desForm_emptyInput a st (s := { State.reset with setting := .reference }) rfl
    exact ⟨t, hexec, herr 0x01#8 rfl⟩

/-! ## What an access to the command in flight reaches -/

/-- There is a register at every word from 0x000 to 0x030 (R21). -/
theorem Reg.exists_offset_eq {o : Nat} (h4 : o % 4 = 0) (hmax : o ≤ 0x030) :
    ∃ r : Reg, r.offset = o := by
  have hall : ∀ k < 13, ∃ r ∈ Reg.all, r.offset = 4 * k := by decide
  obtain ⟨r, _, hr⟩ := hall (o / 4) (by omega)
  exact ⟨r, by omega⟩

/-- The field registers are those from 0x010 on (R21, R22). -/
theorem Reg.isField_iff (r : Reg) : r.isField = true ↔ 0x010 ≤ r.offset := by
  cases r <;> decide

/-- The registers that the command in flight holds are those from HDR_ERR on (R159). -/
theorem Reg.heldWhileBusy_iff (r : Reg) : r.heldWhileBusy = true ↔ 0x00C ≤ r.offset := by
  cases r <;> decide

/-- An aligned 32-bit access up to 0x030 reaches the register at its offset (R49). -/
theorem target_reg_of_offset (P : Params) {o : Nat} (h4 : o % 4 = 0) (hmax : o ≤ 0x030) :
    ∃ r : Reg, r.offset = o ∧ target P 32 o = .reg r := by
  obtain ⟨r, rfl⟩ := Reg.exists_offset_eq h4 hmax
  exact ⟨r, rfl, target_reg P r⟩

/-- A byte or an aligned word of the BUF window (R50, R51). -/
theorem target_buf_of_window (P : Params) {w o : Nat} (hw : w = 8 ∨ (w = 32 ∧ o % 4 = 0))
    (hmin : bufBase ≤ o) (hmax : o < bufBase + P.bufSize) : ∃ a, target P w o = .buf a := by
  obtain ⟨a, rfl⟩ := Nat.exists_eq_add_of_le hmin
  refine ⟨a, ?_⟩
  rcases hw with rfl | ⟨rfl, h4⟩
  · exact target_buf_byte P a (by omega)
  · exact target_buf_word P a (by omega) (by unfold bufBase at h4; omega)

section
variable {s : State} {w : Nat} {o : Offset}

/-- A step with a write to an input of the command in flight (R158). -/
theorem step_of_hazardWrite {v : Word} (h : s.hostNext (.write w o v)) (hb : s.busy = true)
    (ht : (∃ r, target s.params w o.toNat = .reg r ∧ r.isField = true) ∨
      ∃ a, target s.params w o.toNat = .buf a) : step s = .next s.popTurn.hazard := by
  rw [step_of_host s _ h, State.hostAccess, State.hostWrite, State.popTurn_params]
  rcases ht with ⟨r, ht, hr⟩ | ⟨a, ht⟩
  · simp [ht, hb, hr]
  · simp [ht, hb]

/-- A step with a read of what the command in flight holds (R159). -/
theorem step_of_heldRead (h : s.hostNext (.read w o)) (hb : s.busy = true)
    (ht : (∃ r, target s.params w o.toNat = .reg r ∧ r.heldWhileBusy = true) ∨
      ∃ a, target s.params w o.toNat = .buf a) : step s = .next (s.popTurn.respondDraw w) := by
  rw [step_of_host s _ h, State.hostAccess, State.hostRead, State.popTurn_params]
  rcases ht with ⟨r, ht, hr⟩ | ⟨a, ht⟩
  · simp [ht, hb, hr]
  · simp [ht, hb]

end

/-! ## Draws and hazards -/

/-- Settles O44: the byte read is `Memory.read` of a cell that nothing has written, and a read
writes no cell. -/
theorem unwrittenByteReadsAsFreshDraw : Obligations.UnwrittenByteReadsAsFreshDraw := by
  intro s o a hb ha ho hcell h
  have ht : target s.params 8 o.toNat = .buf a := ho ▸ target_buf_byte s.params a ha
  have hdraw : s.buf.read s.draws a = Config.freeByte s.draws := by
    rw [Memory.read, hcell, Option.getD_none]
  exact ⟨_, step_of_bufRead h hb ht, congrArg (fun b => some (Response.byte b)) hdraw, hcell,
    Nat.lt_succ_self s.draws⟩

/-- Settles O48: the write reaches a field register or BUF, and is a hazard. -/
theorem busyInputWriteIsHazard : Obligations.BusyInputWriteIsHazard := by
  intro s w o v hb hinput h
  refine step_of_hazardWrite h hb ?_
  rcases hinput with ⟨rfl, h4, hmin, hmax⟩ | ⟨hw, hmin, hmax⟩
  · obtain ⟨r, hr, ht⟩ := target_reg_of_offset s.params h4 hmax
    exact .inl ⟨r, ht, r.isField_iff.2 (hr ▸ hmin)⟩
  · exact .inr (target_buf_of_window s.params hw hmin hmax)

/-- Settles O49: the read reaches HDR_ERR, a field register or BUF, and is a draw; an 8-bit one that
is legal reaches BUF. -/
theorem busyResultReadIsDraw : Obligations.BusyResultReadIsDraw := by
  refine fun s o hb hresult => ⟨fun h4 h => step_of_heldRead h hb ?_,
    fun hmem h => step_of_heldRead h hb (.inr ?_)⟩
  · rcases hresult with ⟨_, hmin, hmax⟩ | ⟨hmin, hmax⟩
    · obtain ⟨r, hr, ht⟩ := target_reg_of_offset s.params h4 hmax
      exact .inl ⟨r, ht, r.heldWhileBusy_iff.2 (hr ▸ hmin)⟩
    · exact .inr (target_buf_of_window s.params (.inr ⟨rfl, h4⟩) hmin hmax)
  · rcases hresult with ⟨_, _, hmax⟩ | ⟨hmin, hmax⟩
    · omega
    · exact target_buf_of_window s.params (.inl rfl) hmin hmax

/-! ## The command in flight -/

/-- A host access takes no turn but its own (R62, log entry 3). -/
theorem hostAccess_schedule (s : State) (a : Access) : (s.hostAccess a).schedule = s.schedule := by
  cases a with
  | read w o =>
    rcases hostRead_frame s w o with ⟨r, n, h⟩ | ⟨_, h⟩ <;> simp [State.hostAccess, h]
  | write w o v =>
    rcases hostWrite_cases s w o v with ⟨_, h⟩ | ⟨_, h⟩ | ⟨r, _, _, _, h⟩ | ⟨r, _, _, h⟩ |
      ⟨b, _, _, h⟩ | ⟨b, _, _, h⟩ <;> simp [State.hostAccess, h, setReg_frame]

/-- No host access completes or abandons the command in flight (R34). -/
theorem hostAccess_busy {s : State} (hb : s.busy = true) (a : Access) :
    (s.hostAccess a).busy = true := by
  rcases hostAccess_status s a with ⟨_, _, hidle, _⟩ | ⟨_, _, _, h⟩ | ⟨_, _, h⟩ | ⟨h, _⟩
  · simp [hb] at hidle
  all_goals
    rw [h]
    exact hb

/-- A step with a command in flight and no reset completes the command, or is a host access that
leaves it in flight (R133, R163). -/
theorem step_of_busy {s : State} (hb : s.busy = true) (hr : s.nextTurn.reset = false) :
    ∃ t, step s = .next t ∧ ((t.busy = false ∧ t.done = true) ∨
      ((∃ a, s.hostNext a) ∧ t.busy = true ∧ t.schedule = s.schedule.tail)) := by
  obtain ⟨t, hstep, _⟩ := step_next s
  refine ⟨t, hstep, ?_⟩
  rcases step_inv hstep with ⟨hreset, _⟩ | ⟨a, ha, rfl⟩ | ⟨hidle, _⟩ | ⟨_, _, hc⟩
  · simp [hr] at hreset
  · exact .inr ⟨⟨a, ha⟩, hostAccess_busy (s := s.popTurn) hb a, hostAccess_schedule s.popTurn a⟩
  · simp [hb] at hidle
  · exact .inl ⟨hc.busy, hc.done⟩

/-- With no turn scheduled the Host has no access (R163, log entry 3). -/
theorem not_hostNext_of_no_turns {s : State} (h : s.schedule = []) (a : Access) :
    ¬ s.hostNext a := by
  simp [State.hostNext, State.nextTurn, h]

/-- Settles O8, by induction on the scheduled turns: each step completes the command, or is a host
access that takes the first of them; with none left the Engine's turn completes it. -/
theorem commandInFlightCompletes : Obligations.CommandInFlightCompletes := by
  intro s hb hnoReset
  generalize hturns : s.schedule = turns at hnoReset ⊢
  induction turns generalizing s with
  | nil =>
    obtain ⟨t, hstep, hdone | ⟨⟨a, ha⟩, _⟩⟩ := step_of_busy hb (by rw [State.nextTurn, hturns]; rfl)
    · exact ⟨1, by simp, t, core_run_of_step s t 0 hstep, hdone⟩
    · exact absurd ha (not_hostNext_of_no_turns hturns a)
  | cons turn rest ih =>
    have hr : s.nextTurn.reset = false := by
      rw [State.nextTurn, hturns]
      exact hnoReset turn List.mem_cons_self
    obtain ⟨t, hstep, hdone | ⟨_, hbusy, hrest⟩⟩ := step_of_busy hb hr
    · exact ⟨1, by simp, t, core_run_of_step s t 0 hstep, hdone⟩
    · rw [hturns, List.tail_cons] at hrest
      obtain ⟨k, hk, u, hrun, hdone⟩ :=
        ih t hbusy hrest fun x hx => hnoReset x (List.mem_cons_of_mem _ hx)
      exact ⟨k + 1, Nat.succ_le_succ hk, u, (core_run_of_step s t k hstep).trans hrun, hdone⟩

end Sys2Proof.Machine
